-- ==== Sys2Proof/Word.lean ====
section
/-! DEFINITION. The bit-vector types of the machine, named by the widths of 00_scope.md R6, R8 and R9. All values are
unsigned; `+`, `-` on them are the wrapping `+_N`, `-_N` of R9. -/

namespace Sys2Proof

/-- A `u8`: a general register, a timer, a byte of memory (R9, R18). -/
abbrev Byte := BitVec 8

/-- A `u16`: an opcode word, `I`, `pc`, a stack entry (R9, R22 to R24). -/
abbrev Word := BitVec 16

/-- A nibble, bits `[4k+3 : 4k]` of a word (R8). -/
abbrev Nibble := BitVec 4

/-- The 12-bit address immediate `nnn` (R64, R67). -/
abbrev Addr12 := BitVec 12

/-- A direct register index 0 to 15 (R68). -/
abbrev RegIdx := Fin 16

end Sys2Proof
end

