-- ==== Sys2Proof/Syntax.lean ====
section
/-! DEFINITION. The instructions of the CORE: one constructor for each of the 32 rows of 30_encoding.md R66, with the
operands the row's rule names. `x`, `y` are direct register indexes, `nn` the 8-bit and `nnn` the 12-bit immediate, `n`
the number of sprite rows (R64, R67, R68). Rows 16 and 17 ignore `y` (R71), so `shr` and `shl` have no such operand. -/

namespace Sys2Proof

inductive Instr where
  /-- 00E0 `CLS` (R124) -/
  | cls
  /-- 00EE `RET` (R93) -/
  | ret
  /-- 1nnn `JP nnn` (R94) -/
  | jp (nnn : Addr12)
  /-- 2nnn `CALL nnn` (R95) -/
  | call (nnn : Addr12)
  /-- 3xnn `SE Vx, nn` (R97) -/
  | seImm (x : RegIdx) (nn : Byte)
  /-- 4xnn `SNE Vx, nn` (R98) -/
  | sneImm (x : RegIdx) (nn : Byte)
  /-- 5xy0 `SE Vx, Vy` (R99) -/
  | seReg (x y : RegIdx)
  /-- 6xnn `LD Vx, nn` (R104) -/
  | ldImm (x : RegIdx) (nn : Byte)
  /-- 7xnn `ADD Vx, nn` (R105) -/
  | addImm (x : RegIdx) (nn : Byte)
  /-- 8xy0 `LD Vx, Vy` (R106) -/
  | ldReg (x y : RegIdx)
  /-- 8xy1 `OR Vx, Vy` (R107) -/
  | orReg (x y : RegIdx)
  /-- 8xy2 `AND Vx, Vy` (R108) -/
  | andReg (x y : RegIdx)
  /-- 8xy3 `XOR Vx, Vy` (R109) -/
  | xorReg (x y : RegIdx)
  /-- 8xy4 `ADD Vx, Vy` (R110) -/
  | addReg (x y : RegIdx)
  /-- 8xy5 `SUB Vx, Vy` (R111) -/
  | subReg (x y : RegIdx)
  /-- 8xy6 `SHR Vx` (R112) -/
  | shr (x : RegIdx)
  /-- 8xyE `SHL Vx` (R113) -/
  | shl (x : RegIdx)
  /-- 9xy0 `SNE Vx, Vy` (R100) -/
  | sneReg (x y : RegIdx)
  /-- Annn `LD I, nnn` (R117) -/
  | ldI (nnn : Addr12)
  /-- Bnnn `JP V0, nnn` (R96) -/
  | jpV0 (nnn : Addr12)
  /-- Cxnn `RND Vx, nn` (R116) -/
  | rnd (x : RegIdx) (nn : Byte)
  /-- Dxyn `DRW Vx, Vy, n` (R126) -/
  | drw (x y : RegIdx) (n : Nat)
  /-- Ex9E `SKP Vx` (R137) -/
  | skp (x : RegIdx)
  /-- ExA1 `SKNP Vx` (R139) -/
  | sknp (x : RegIdx)
  /-- Fx07 `LD Vx, DT` (R134) -/
  | ldFromDT (x : RegIdx)
  /-- Fx15 `LD DT, Vx` (R135) -/
  | ldDT (x : RegIdx)
  /-- Fx18 `LD ST, Vx` (R136) -/
  | ldST (x : RegIdx)
  /-- Fx1E `ADD I, Vx` (R118) -/
  | addI (x : RegIdx)
  /-- Fx29 `LD F, Vx` (R120) -/
  | ldF (x : RegIdx)
  /-- Fx33 `LD B, Vx` (R121) -/
  | bcd (x : RegIdx)
  /-- Fx55 `LD [I], Vx` (R122) -/
  | store (x : RegIdx)
  /-- Fx65 `LD Vx, [I]` (R123) -/
  | load (x : RegIdx)
  deriving DecidableEq, Repr

end Sys2Proof
end

