-- ==== Sys2Proof/Decode.lean ====
section
/-! DEFINITION. Decoding (30_encoding.md R63 to R76), total on any bytes and rejecting by name, and its inverse, the
encoder (R80). Decoding reads no state (R84). -/

namespace Sys2Proof

/-! ### Fields of an opcode word (R64) -/

/-- The family selector `opc[15:12]` (R64). -/
def Opcode.family (opc : Word) : Nibble := opc.extractLsb' 12 4

/-- The field `x = opc[11:8]` as a register index (R64, R68). -/
def Opcode.x (opc : Word) : RegIdx := (opc.extractLsb' 8 4).toFin

/-- The field `y = opc[7:4]` as a register index (R64, R68). -/
def Opcode.y (opc : Word) : RegIdx := (opc.extractLsb' 4 4).toFin

/-- The field `n = opc[3:0]` (R64). -/
def Opcode.n (opc : Word) : Nibble := opc.extractLsb' 0 4

/-- The field `nn = opc[7:0]` (R64). -/
def Opcode.nn (opc : Word) : Byte := opc.extractLsb' 0 8

/-- The field `nnn = opc[11:0]` (R64). -/
def Opcode.nnn (opc : Word) : Addr12 := opc.extractLsb' 0 12

/-! ### Decoder -/

/-- Why bytes are no instruction. -/
inductive Reject where
  /-- Fewer than the two bytes of an instruction (R63). -/
  | truncated
  /-- A word of the unknown-opcode space (R72); what the CORE then does is R145. -/
  | unknownOpcode (opc : Word)
  deriving DecidableEq, Repr

/-- Sub-ops of family 8, selected by `n` (R69). -/
def decode8 (opc : Word) : Except Reject Instr :=
  if Opcode.n opc = 0x0 then .ok (.ldReg (Opcode.x opc) (Opcode.y opc))
  else if Opcode.n opc = 0x1 then .ok (.orReg (Opcode.x opc) (Opcode.y opc))
  else if Opcode.n opc = 0x2 then .ok (.andReg (Opcode.x opc) (Opcode.y opc))
  else if Opcode.n opc = 0x3 then .ok (.xorReg (Opcode.x opc) (Opcode.y opc))
  else if Opcode.n opc = 0x4 then .ok (.addReg (Opcode.x opc) (Opcode.y opc))
  else if Opcode.n opc = 0x5 then .ok (.subReg (Opcode.x opc) (Opcode.y opc))
  else if Opcode.n opc = 0x6 then .ok (.shr (Opcode.x opc))
  else if Opcode.n opc = 0xE then .ok (.shl (Opcode.x opc))
  else .error (.unknownOpcode opc)

/-- Sub-ops of family F, selected by `nn` (R69). -/
def decodeF (opc : Word) : Except Reject Instr :=
  if Opcode.nn opc = 0x07 then .ok (.ldFromDT (Opcode.x opc))
  else if Opcode.nn opc = 0x15 then .ok (.ldDT (Opcode.x opc))
  else if Opcode.nn opc = 0x18 then .ok (.ldST (Opcode.x opc))
  else if Opcode.nn opc = 0x1E then .ok (.addI (Opcode.x opc))
  else if Opcode.nn opc = 0x29 then .ok (.ldF (Opcode.x opc))
  else if Opcode.nn opc = 0x33 then .ok (.bcd (Opcode.x opc))
  else if Opcode.nn opc = 0x55 then .ok (.store (Opcode.x opc))
  else if Opcode.nn opc = 0x65 then .ok (.load (Opcode.x opc))
  else .error (.unknownOpcode opc)

/-- `Decode(opc)` of R69: the two-level dispatch, family nibble then sub-op. Strict: only the 32 rows of R66 decode
(R73, R75, D14, D15; log 12). -/
def decode (opc : Word) : Except Reject Instr :=
  if Opcode.family opc = 0x0 then
    if opc = 0x00E0 then .ok .cls
    else if opc = 0x00EE then .ok .ret
    else .error (.unknownOpcode opc)
  else if Opcode.family opc = 0x1 then .ok (.jp (Opcode.nnn opc))
  else if Opcode.family opc = 0x2 then .ok (.call (Opcode.nnn opc))
  else if Opcode.family opc = 0x3 then .ok (.seImm (Opcode.x opc) (Opcode.nn opc))
  else if Opcode.family opc = 0x4 then .ok (.sneImm (Opcode.x opc) (Opcode.nn opc))
  else if Opcode.family opc = 0x5 then
    if Opcode.n opc = 0x0 then .ok (.seReg (Opcode.x opc) (Opcode.y opc)) else .error (.unknownOpcode opc)
  else if Opcode.family opc = 0x6 then .ok (.ldImm (Opcode.x opc) (Opcode.nn opc))
  else if Opcode.family opc = 0x7 then .ok (.addImm (Opcode.x opc) (Opcode.nn opc))
  else if Opcode.family opc = 0x8 then decode8 opc
  else if Opcode.family opc = 0x9 then
    if Opcode.n opc = 0x0 then .ok (.sneReg (Opcode.x opc) (Opcode.y opc)) else .error (.unknownOpcode opc)
  else if Opcode.family opc = 0xA then .ok (.ldI (Opcode.nnn opc))
  else if Opcode.family opc = 0xB then .ok (.jpV0 (Opcode.nnn opc))
  else if Opcode.family opc = 0xC then .ok (.rnd (Opcode.x opc) (Opcode.nn opc))
  else if Opcode.family opc = 0xD then .ok (.drw (Opcode.x opc) (Opcode.y opc) (Opcode.n opc).toNat)
  else if Opcode.family opc = 0xE then
    if Opcode.nn opc = 0x9E then .ok (.skp (Opcode.x opc))
    else if Opcode.nn opc = 0xA1 then .ok (.sknp (Opcode.x opc))
    else .error (.unknownOpcode opc)
  else decodeF opc

/-- The word two bytes make: big-endian, the byte at the lower address is bits `[15:8]` (R47, R63). -/
def wordOfBytes (hi lo : Byte) : Word := hi ++ lo

/-- Decode the instruction at the head of a byte sequence and give the rest: two bytes an instruction (R63). -/
def decodeBytes : List Byte → Except Reject (Instr × List Byte)
  | hi :: lo :: rest =>
    match decode (wordOfBytes hi lo) with
    | .ok i => .ok (i, rest)
    | .error r => .error r
  | _ => .error .truncated

/-! ### Encoder (R80) -/

/-- Formats `XY` and `XYN`: `f ++ x ++ y ++ n` (R65, R80). -/
def encodeXYN (f : Nibble) (x y : RegIdx) (n : Nibble) : Word :=
  f ++ (BitVec.ofFin x : Nibble) ++ (BitVec.ofFin y : Nibble) ++ n

/-- Formats `XNN` and `X`: `f ++ x ++ nn`, `nn` the immediate or the sub-op byte (R65, R80). -/
def encodeXNN (f : Nibble) (x : RegIdx) (nn : Byte) : Word := f ++ (BitVec.ofFin x : Nibble) ++ nn

/-- Format `NNN`: `f ++ nnn` (R65, R80). -/
def encodeNNN (f : Nibble) (nnn : Addr12) : Word := f ++ nnn

/-- The word of an instruction (R66, R80); `SHR Vx` and `SHL Vx` take `y = 0` (R78). -/
def encode : Instr → Word
  | .cls => 0x00E0
  | .ret => 0x00EE
  | .jp nnn => encodeNNN 0x1 nnn
  | .call nnn => encodeNNN 0x2 nnn
  | .seImm x nn => encodeXNN 0x3 x nn
  | .sneImm x nn => encodeXNN 0x4 x nn
  | .seReg x y => encodeXYN 0x5 x y 0x0
  | .ldImm x nn => encodeXNN 0x6 x nn
  | .addImm x nn => encodeXNN 0x7 x nn
  | .ldReg x y => encodeXYN 0x8 x y 0x0
  | .orReg x y => encodeXYN 0x8 x y 0x1
  | .andReg x y => encodeXYN 0x8 x y 0x2
  | .xorReg x y => encodeXYN 0x8 x y 0x3
  | .addReg x y => encodeXYN 0x8 x y 0x4
  | .subReg x y => encodeXYN 0x8 x y 0x5
  | .shr x => encodeXYN 0x8 x 0 0x6
  | .shl x => encodeXYN 0x8 x 0 0xE
  | .sneReg x y => encodeXYN 0x9 x y 0x0
  | .ldI nnn => encodeNNN 0xA nnn
  | .jpV0 nnn => encodeNNN 0xB nnn
  | .rnd x nn => encodeXNN 0xC x nn
  | .drw x y n => encodeXYN 0xD x y (BitVec.ofNat 4 n)
  | .skp x => encodeXNN 0xE x 0x9E
  | .sknp x => encodeXNN 0xE x 0xA1
  | .ldFromDT x => encodeXNN 0xF x 0x07
  | .ldDT x => encodeXNN 0xF x 0x15
  | .ldST x => encodeXNN 0xF x 0x18
  | .addI x => encodeXNN 0xF x 0x1E
  | .ldF x => encodeXNN 0xF x 0x29
  | .bcd x => encodeXNN 0xF x 0x33
  | .store x => encodeXNN 0xF x 0x55
  | .load x => encodeXNN 0xF x 0x65

/-- The two bytes of an instruction as memory holds them, lower address first (R47). -/
def encodeBytes (i : Instr) : List Byte := [(encode i).extractLsb' 8 8, (encode i).extractLsb' 0 8]

/-! ### The opcode map as data (R66) -/

/-- The (mask, match) pair of an instruction's row in R66. -/
def Instr.row : Instr → Word × Word
  | .cls => (0xFFFF, 0x00E0)
  | .ret => (0xFFFF, 0x00EE)
  | .jp _ => (0xF000, 0x1000)
  | .call _ => (0xF000, 0x2000)
  | .seImm _ _ => (0xF000, 0x3000)
  | .sneImm _ _ => (0xF000, 0x4000)
  | .seReg _ _ => (0xF00F, 0x5000)
  | .ldImm _ _ => (0xF000, 0x6000)
  | .addImm _ _ => (0xF000, 0x7000)
  | .ldReg _ _ => (0xF00F, 0x8000)
  | .orReg _ _ => (0xF00F, 0x8001)
  | .andReg _ _ => (0xF00F, 0x8002)
  | .xorReg _ _ => (0xF00F, 0x8003)
  | .addReg _ _ => (0xF00F, 0x8004)
  | .subReg _ _ => (0xF00F, 0x8005)
  | .shr _ => (0xF00F, 0x8006)
  | .shl _ => (0xF00F, 0x800E)
  | .sneReg _ _ => (0xF00F, 0x9000)
  | .ldI _ => (0xF000, 0xA000)
  | .jpV0 _ => (0xF000, 0xB000)
  | .rnd _ _ => (0xF000, 0xC000)
  | .drw _ _ _ => (0xF000, 0xD000)
  | .skp _ => (0xF0FF, 0xE09E)
  | .sknp _ => (0xF0FF, 0xE0A1)
  | .ldFromDT _ => (0xF0FF, 0xF007)
  | .ldDT _ => (0xF0FF, 0xF015)
  | .ldST _ => (0xF0FF, 0xF018)
  | .addI _ => (0xF0FF, 0xF01E)
  | .ldF _ => (0xF0FF, 0xF029)
  | .bcd _ => (0xF0FF, 0xF033)
  | .store _ => (0xF0FF, 0xF055)
  | .load _ => (0xF0FF, 0xF065)

/-- The 32 (mask, match) pairs of R66, in the table's order. -/
def opcodeTable : List (Word × Word) :=
  [(0xFFFF, 0x00E0), (0xFFFF, 0x00EE), (0xF000, 0x1000), (0xF000, 0x2000), (0xF000, 0x3000), (0xF000, 0x4000),
   (0xF00F, 0x5000), (0xF000, 0x6000), (0xF000, 0x7000), (0xF00F, 0x8000), (0xF00F, 0x8001), (0xF00F, 0x8002),
   (0xF00F, 0x8003), (0xF00F, 0x8004), (0xF00F, 0x8005), (0xF00F, 0x8006), (0xF00F, 0x800E), (0xF00F, 0x9000)] ++
  [(0xF000, 0xA000), (0xF000, 0xB000), (0xF000, 0xC000), (0xF000, 0xD000), (0xF0FF, 0xE09E), (0xF0FF, 0xE0A1),
   (0xF0FF, 0xF007), (0xF0FF, 0xF015), (0xF0FF, 0xF018), (0xF0FF, 0xF01E), (0xF0FF, 0xF029), (0xF0FF, 0xF033),
   (0xF0FF, 0xF055), (0xF0FF, 0xF065)]

/-- A word selects a row when `opc & mask = match` (R66). -/
def selects (opc : Word) (row : Word × Word) : Bool := opc &&& row.1 == row.2

/-! ### The host's table words -/

/-- The word of a table row given as a number whose bit 0 is the word's least significant bit; bits from `nbits` up are 0. -/
def tableWord (nbits w : Nat) : Word := BitVec.ofNat 16 (w % 2 ^ nbits)

/-- The bytes of a table word as the hardware stores them: high byte at the lower address (R47). -/
def tableBytes (nbits w : Nat) : List Byte :=
  [(tableWord nbits w).extractLsb' 8 8, (tableWord nbits w).extractLsb' 0 8]

/-- The instruction the decoder reads from a table word laid out in memory's byte order. -/
def decodeTableWord (nbits w : Nat) : Option Instr :=
  match decodeBytes (tableBytes nbits w) with
  | .ok (i, _) => some i
  | .error _ => none

end Sys2Proof
end

