-- ==== Sys2Proof/Config.lean ====
section
/-! DEFINITION. The named parameters of 00_scope.md R7 (plain data, carried by `State.params`, log 3), their defaults,
and the one free value of the machine: the random byte of `Cxnn` (R116), a constant with no body. -/

namespace Sys2Proof

/-- What an unknown opcode does to pc and run state (R7, R145, D6). -/
inductive UnknownOpcodePolicy where
  | skip
  | stall
  | halt
  deriving DecidableEq, Repr

/-- Memory addresses above 0xFFF and key indexes above 0xF (R7, R49, R138, D4, D5). -/
inductive OobPolicy where
  | wrap
  | fault
  deriving DecidableEq, Repr

/-- The order of the flag write and the result write of 8xy4, 8xy5, 8xy6, 8xyE (R7, R103, D9). -/
inductive VfOrder where
  | latchedFlagFirst
  | latchedFlagLast
  | sequential
  deriving DecidableEq, Repr

/-- The value of `I` after Fx29 when Vx > 0x0F (R7, R120, D11). -/
inductive FontIndex where
  | raw
  | lowNibble
  deriving DecidableEq, Repr

/-- The 80 bytes at 0x000 to 0x04F after reset: 16 glyphs of 5 bytes (R6, R17). -/
abbrev Font := Vector Byte 80

/-- R7's parameters, but for `RNG`, which is `Config.randomByte`. -/
structure Params where
  unknownOpcode : UnknownOpcodePolicy
  oob : OobPolicy
  vfOrder : VfOrder
  fontIndex : FontIndex
  font : Font
  deriving DecidableEq, Repr

/-- The default of `FONT`, R17's table. PRESUMED: the spec takes the bytes from general knowledge (K1, D21; log 2). -/
def Font.standard : Font :=
  #v[0xF0, 0x90, 0x90, 0x90, 0xF0,  -- 0
     0x20, 0x60, 0x20, 0x20, 0x70,  -- 1
     0xF0, 0x10, 0xF0, 0x80, 0xF0,  -- 2
     0xF0, 0x10, 0xF0, 0x10, 0xF0,  -- 3
     0x90, 0x90, 0xF0, 0x10, 0x10,  -- 4
     0xF0, 0x80, 0xF0, 0x10, 0xF0,  -- 5
     0xF0, 0x80, 0xF0, 0x90, 0xF0,  -- 6
     0xF0, 0x10, 0x20, 0x40, 0x40,  -- 7
     0xF0, 0x90, 0xF0, 0x90, 0xF0,  -- 8
     0xF0, 0x90, 0xF0, 0x10, 0xF0,  -- 9
     0xF0, 0x90, 0xF0, 0x90, 0x90,  -- A
     0xE0, 0x90, 0xE0, 0x90, 0xE0,  -- B
     0xF0, 0x80, 0x80, 0x80, 0xF0,  -- C
     0xE0, 0x90, 0x90, 0x90, 0xE0,  -- D
     0xF0, 0x80, 0xF0, 0x80, 0xF0,  -- E
     0xF0, 0x80, 0xF0, 0x80, 0x80]  -- F

/-- The defaults of R7's table. DESIGN CHOICE of the spec for each open point (D4, D5, D6, D9, D11, D21; log 2, 4 to 7). -/
def Params.default : Params where
  unknownOpcode := .skip
  oob := .wrap
  vfOrder := .latchedFlagFirst
  fontIndex := .raw
  font := Font.standard

/-- The byte the provider supplies for the `k`-th execution of Cxnn, counted from 0: FREE, any of 256 values each time,
no distribution and no independence (R116, D31; log 8). It has no body, so no proof can see it. -/
opaque Config.randomByte : Nat → Byte

end Sys2Proof
end

