-- ==== Sys2Proof/Machine/State.lean ====
section
/-! DEFINITION. The state of the CORE (10_state.md R15 to R36), its value after reset (R38), and the reasons an outcome
stops. Plain data: `State` holds every element the spec names and three fields of the model's own. -/

namespace Sys2Proof.Machine

/-- Memory: the bytes that differ from their reset content, as (address, byte) pairs in canonical form (`Memory.wf`). -/
abbrev Memory := List Host.Cell

/-- The grid of 32 rows of 64 one-bit pixels, row by row; its storage layout is unobservable (R28, R29). -/
abbrev Framebuffer := Vector (Vector Bool 64) 32

/-- `run_state` (R33). -/
inductive RunState where
  | unloaded
  | running
  | halted
  deriving DecidableEq, Repr

/-- `fault_cause` (R34, R141). Codes 5 to 7 are never held, so they are no values here. -/
inductive FaultCause where
  /-- code 0, None -/
  | noCause
  /-- code 1 (R145) -/
  | unknownOpcode
  /-- code 2 (R146) -/
  | stackOverflow
  /-- code 3 (R147) -/
  | stackUnderflow
  /-- code 4 (R148) -/
  | rangeFault
  deriving DecidableEq, Repr

/-- The events the CORE emits to the host (R44). -/
inductive Event where
  /-- `SoundPulse`, once per tick that sets sound_flag (R133) -/
  | soundPulse
  /-- `UnknownOpcode(opcode, family)`, once per report (R145) -/
  | unknownOpcode (opcode : Word) (family : Nibble)
  deriving DecidableEq, Repr

structure State where
  /-- `memory` (R15) -/
  mem : Memory
  /-- `V0` to `VF` (R18) -/
  v : Vector Byte 16
  /-- `I` (R22) -/
  i : Word
  /-- `pc` (R23) -/
  pc : Word
  /-- `stack[0]` to `stack[15]` (R24) -/
  stack : Vector Word 16
  /-- `sp`, 0 to 16 (R25) -/
  sp : Fin 17
  /-- `DT`, the delay timer (R26) -/
  dt : Byte
  /-- `ST`, the sound timer (R27) -/
  st : Byte
  /-- `framebuffer` (R28) -/
  fb : Framebuffer
  /-- `draw_flag` (R30) -/
  drawFlag : Bool
  /-- `sound_flag` (R31) -/
  soundFlag : Bool
  /-- `keys`, true means pressed (R32) -/
  keys : Vector Bool 16
  /-- `run_state` (R33) -/
  runState : RunState
  /-- `fault_cause` (R34) -/
  faultCause : FaultCause
  /-- `fault_opcode` (R35) -/
  faultOpcode : Word
  /-- `fault_pc` (R35) -/
  faultPc : Word
  /-- `unknown_flag` (R36) -/
  unknownFlag : Bool
  /-- The model's own: the parameters of R7, never written (log 3). -/
  params : Params
  /-- The model's own: how many bytes Cxnn has drawn, the position of the free value `Config.randomByte` (log 8). -/
  rngDraws : Nat
  /-- The model's own: the events emitted so far, oldest first (log 9). -/
  events : List Event
  deriving DecidableEq, Repr

/-- Why the machine stops with a fault: no reason. Every condition of R141 is recorded in the status registers by a next
state (R142, R145), after which the CORE is `Halted` or goes on; nobody raises a `Fault` (log 10). -/
inductive Fault where
  deriving DecidableEq, Repr

/-- Why something is refused. -/
inductive Refusal where
  /-- Raised by `exec` for an instruction that has no meaning yet (none in this model). Safe: nothing is proved past it. -/
  | notModelled (mnemonic : String)
  /-- Raised by the host ports that read registers, memory or the framebuffer of an unloaded CORE, whose state the spec
  leaves undefined (R149, R162, 93_implementation_defined.md row 13). Safe: no value is given. -/
  | unloadedRead
  /-- Raised by `ReadPixel` for a coordinate outside 64 by 32, which the port refuses (R43). Safe: no value is given. -/
  | pixelOutsidePort
  deriving DecidableEq, Repr

/-- What a meaning answers. -/
abbrev Result := Host.Outcome State Fault Refusal

/-- R38's table for given parameters: the state after a load of an empty image (R159, R160). -/
def State.initial (p : Params) : State where
  mem := []
  v := Vector.replicate 16 0x00
  i := 0x0000
  pc := 0x0200
  stack := Vector.replicate 16 0x0000
  sp := 0
  dt := 0x00
  st := 0x00
  fb := Vector.replicate 32 (Vector.replicate 64 false)
  drawFlag := false
  soundFlag := false
  keys := Vector.replicate 16 false
  runState := .running
  faultCause := .noCause
  faultOpcode := 0x0000
  faultPc := 0x0000
  unknownFlag := false
  params := p
  rngDraws := 0
  events := []

/-- The machine right after reset (R38, R159), with the default parameters of R7. -/
def State.reset : State := State.initial Params.default

end Sys2Proof.Machine
end

