-- ==== Sys2Proof/Machine/Ops.lean ====
section
/-! DEFINITION. The named operations over the state: memory and its address function (20_memory.md), registers and pc,
the framebuffer, the instruction fetch (40_step.md R83), fault entry and the unknown-opcode report (60_exceptions.md R142,
R145), and the timer tick (45_timers_keys.md R132). There is no return from a fault (R144). -/

namespace Sys2Proof.Machine

/-! ### Memory (R45, R51, R52, R55) -/

/-- What an address that nothing has written reads as: its content after reset, `FONT` at 0x000 to 0x04F and 0x00 from
there on (R15, R52). -/
def Memory.unlisted (font : Font) (a : Nat) : Byte := if h : a < 80 then font[a] else 0x00

/-- Drop every entry of address `a`. -/
def Memory.remove : Memory → Nat → Memory
  | [], _ => []
  | c :: m, a => if c.1 = a then Memory.remove m a else c :: Memory.remove m a

/-- Set the entry of address `a`, keeping the addresses rising. -/
def Memory.insert : Memory → Nat → Byte → Memory
  | [], a, b => [(a, b)]
  | c :: m, a, b =>
    if a < c.1 then (a, b) :: c :: m
    else if c.1 = a then (a, b) :: m
    else c :: Memory.insert m a b

/-- The listed byte of an address. -/
def Memory.find : Memory → Nat → Option Byte
  | [], _ => none
  | c :: m, a => if c.1 = a then some c.2 else Memory.find m a

/-- `memory[a]`: the latest byte written, or the reset content (R55). -/
def Memory.read (font : Font) (m : Memory) (a : Nat) : Byte := (m.find a).getD (Memory.unlisted font a)

/-- `memory[a] <- b`. Writing what an unlisted address reads as removes the entry, so equal memories are equal data. -/
def Memory.write (font : Font) (m : Memory) (a : Nat) (b : Byte) : Memory :=
  if b = Memory.unlisted font a then m.remove a else m.insert a b

/-- Every address lies above `lo` and below 4096, rises, and is listed only where it differs from the reset content. -/
def Memory.canonicalFrom (font : Font) : Nat → Memory → Bool
  | _, [] => true
  | lo, c :: m => decide (lo ≤ c.1) && decide (c.1 < 4096) && c.2 != Memory.unlisted font c.1 &&
      Memory.canonicalFrom font (c.1 + 1) m

/-- The canonical form of memory: 4096 addresses (R45), strictly rising, no entry equal to the reset content. -/
def Memory.wf (font : Font) (m : Memory) : Bool := Memory.canonicalFrom font 0 m

/-- `MemRead(a, 1)` at an address already reduced by `Addr` (R10, R51). -/
def State.readMem (s : State) (a : Nat) : Byte := s.mem.read s.params.font a

/-- `MemWrite(a, 1, b)` at an address already reduced by `Addr` (R10, R51, R53). -/
def State.writeMem (s : State) (a : Nat) (b : Byte) : State := { s with mem := s.mem.write s.params.font a b }

/-- `Addr(a)` (R49): `none` is the RangeFault of `OOB_POLICY = Fault`. -/
def State.addr (s : State) (a : Nat) : Option Nat :=
  match s.params.oob with
  | .wrap => some (a % 4096)
  | .fault => if a > 0xFFF then none else some a

/-- `Addr(a), Addr(a + 1), …`, `n` of them; `none` if any of them faults. -/
def State.addrs (s : State) : Nat → Nat → Option (List Nat)
  | _, 0 => some []
  | a, n + 1 =>
    match s.addr a with
    | none => none
    | some b =>
      match s.addrs (a + 1) n with
      | none => none
      | some bs => some (b :: bs)

/-- The candidate of an I-based access at offset 0: `I & 0x0FFF` (R48, C10). -/
def State.indexBase (s : State) : Nat := (s.i &&& 0x0FFF).toNat

/-- The addresses of an I-based access of `n` bytes, all computed before any access (R48, R121 to R123, R126). -/
def State.indexAddrs (s : State) (n : Nat) : Option (List Nat) := s.addrs s.indexBase n

/-- Read the bytes at some addresses, in order. -/
def State.readAll (s : State) : List Nat → List Byte
  | [] => []
  | a :: as => s.readMem a :: s.readAll as

/-- Write bytes to some addresses, in order. -/
def State.writeAll : State → List Nat → List Byte → State
  | s, a :: as, b :: bs => (s.writeMem a b).writeAll as bs
  | s, _, _ => s

/-! ### Registers, pc, stack (R18, R22 to R25) -/

/-- The index of `VF` (R11, R19). -/
abbrev vf : RegIdx := 15

/-- `V[x]` (R10). -/
def State.reg (s : State) (x : RegIdx) : Byte := s.v[x.val]

/-- `V[x] <- b` (R10). -/
def State.setReg (s : State) (x : RegIdx) (b : Byte) : State := { s with v := s.v.set x.val b }

/-- `V[k] <- b₀; V[k+1] <- b₁; …` while register indexes last (R123). -/
def State.setRegsFrom : State → Nat → List Byte → State
  | s, _, [] => s
  | s, k, b :: bs => if h : k < 16 then (s.setReg ⟨k, h⟩ b).setRegsFrom (k + 1) bs else s

/-- `V[k], V[k+1], …`, `n` of them, while register indexes last (R122). -/
def State.regsFrom (s : State) : Nat → Nat → List Byte
  | _, 0 => []
  | k, n + 1 => if h : k < 16 then s.reg ⟨k, h⟩ :: s.regsFrom (k + 1) n else []

/-- `pc <- target` (R10). -/
def State.setPc (s : State) (target : Word) : State := { s with pc := target }

/-- Advance `d`: `pc <- pc +_16 d` (R12). -/
def State.advance (s : State) (d : Word) : State := s.setPc (s.pc + d)

/-- Advance 4 if the condition holds, else advance 2 (R86). -/
def State.skipIf (s : State) (c : Bool) : State := if c then s.advance 4 else s.advance 2

/-- `I <- a` (R22). -/
def State.setI (s : State) (a : Word) : State := { s with i := a }

/-- `stack[k]` (R24). -/
def State.stackAt (s : State) (k : Fin 16) : Word := s.stack[k.val]

/-! ### Timers and flags (R26, R27, R30) -/

/-- `DT <- b`. -/
def State.setDT (s : State) (b : Byte) : State := { s with dt := b }

/-- `ST <- b`. -/
def State.setST (s : State) (b : Byte) : State := { s with st := b }

/-! ### Framebuffer (R28, R29, R125) -/

/-- A pixel address: column 0 to 63, row 0 to 31 (R29). -/
abbrev Pixel := Fin 64 × Fin 32

/-- `Fb(px, py)` (R10). -/
def Framebuffer.get (fb : Framebuffer) (p : Pixel) : Bool := (fb[p.2.val])[p.1.val]

/-- `Fb(px, py) <- Fb(px, py) XOR 1`. -/
def Framebuffer.toggle (fb : Framebuffer) (p : Pixel) : Framebuffer :=
  fb.set p.2.val ((fb[p.2.val]).set p.1.val (!fb.get p))

/-- Every pixel 0 (R124). -/
def Framebuffer.clear : Framebuffer := Vector.replicate 32 (Vector.replicate 64 false)

/-- `Fb(px, py)` of the state. -/
def State.pixel (s : State) (p : Pixel) : Bool := s.fb.get p

/-- Replace the framebuffer and set draw_flag (R30, R130). -/
def State.setFb (s : State) (fb : Framebuffer) : State := { s with fb := fb, drawFlag := true }

/-! ### Fetch (R83) -/

/-- The instruction word at pc, big-endian (R47); `none` is a RangeFault of one of the two addresses. -/
def State.fetch (s : State) : Option Word :=
  match s.addr s.pc.toNat, s.addr (s.pc.toNat + 1) with
  | some a0, some a1 => some (wordOfBytes (s.readMem a0) (s.readMem a1))
  | _, _ => none

/-! ### Fault entry (R142) and the unknown-opcode report (R145) -/

/-- `raise Fault(cause, info)` (R142): nothing but the status changes; `opc` is 0x0000 where no word was fetched. The
meanings raise it on the state before any write, which is R142's restoring (log 11). -/
def State.raiseFault (s : State) (cause : FaultCause) (opc : Word) : State :=
  { s with runState := .halted, faultCause := cause, faultOpcode := opc, faultPc := s.pc }

/-- The family `opc[15:12]` an unknown opcode is reported under (R35, R145). -/
def reportedFamily (opc : Word) : Nibble := Opcode.family opc

/-- `Report(UnknownOpcode)` (R145). -/
def State.reportUnknown (s : State) (opc : Word) : State :=
  { s with
    faultCause := .unknownOpcode, faultOpcode := opc, faultPc := s.pc, unknownFlag := true,
    events := s.events ++ [.unknownOpcode opc (reportedFamily opc)] }

/-- `HandleUnknown(opc)` by `UNKNOWN_OPCODE_POLICY` (R145). -/
def State.handleUnknown (s : State) (opc : Word) : State :=
  match s.params.unknownOpcode with
  | .skip => (s.reportUnknown opc).advance 2
  | .stall => s.reportUnknown opc
  | .halt => s.raiseFault .unknownOpcode opc

/-! ### The tick (R132, R133) -/

/-- The delay timer's part of the tick: down by one while above 0. -/
def State.tickDT (s : State) : State := if s.dt = 0 then s else s.setDT (s.dt - 1)

/-- The sound timer's part of the tick; from 1 it sets sound_flag and emits SoundPulse (R133). -/
def State.tickST (s : State) : State :=
  if s.st = 0 then s
  else if s.st = 1 then { s with st := 0, soundFlag := true, events := s.events ++ [.soundPulse] }
  else s.setST (s.st - 1)

/-- `TimerTick()` (R132). -/
def State.tick (s : State) : State := s.tickDT.tickST

/-- The end of a step's execute phase: the tick, unless the step raised a fault (R87, R88, R89). A step starts in
`Running`, so a fault shows as a run state that is `Running` no more. -/
def State.completeStep (s : State) : State :=
  match s.runState with
  | .running => s.tick
  | .halted => s
  | .unloaded => s

end Sys2Proof.Machine
end

