-- ==== Sys2Proof/Machine/Flags.lean ====
section
/-! DEFINITION. The flag and result functions of 8xy4, 8xy5, 8xy6, 8xyE (42_alu.md R110 to R113), the write order of VF
and Vx (R103), and VF as Dxyn's collision flag (44_display.md R128). No other instruction writes VF as a flag (R91). -/

namespace Sys2Proof.Machine

/-- A flag as the byte VF holds: 1 or 0. -/
def flagByte (b : Bool) : Byte := if b then 1 else 0

/-- Carry of `a + b`: the sum as an integer exceeds 255 (R110). -/
def carryFlag (a b : Byte) : Byte := flagByte (decide (a.toNat + b.toNat > 255))

/-- `a +_8 b` (R110). -/
def addResult (a b : Byte) : Byte := a + b

/-- No borrow of `a - b`: `a >= b` (R111). -/
def noBorrowFlag (a b : Byte) : Byte := flagByte (decide (a.toNat ≥ b.toNat))

/-- `a -_8 b` (R111). -/
def subResult (a b : Byte) : Byte := a - b

/-- The bit 8xy6 shifts out, bit 0 of the old value (R112); the second operand is unused. -/
def shrFlag (a _b : Byte) : Byte := a &&& 0x01

/-- `a >> 1`, a zero enters bit 7 (R112). -/
def shrResult (a _b : Byte) : Byte := a >>> 1

/-- The bit 8xyE shifts out, bit 7 of the old value (R113); the second operand is unused. -/
def shlFlag (a _b : Byte) : Byte := a >>> 7

/-- `(a << 1) mod 256`, a zero enters bit 0 (R113). -/
def shlResult (a _b : Byte) : Byte := a <<< 1

/-- Write `Flag(Vx, Vy)` to VF and `Res(Vx, Vy)` to Vx in the order `VF_ORDER` says (R103). -/
def State.writeFlagResult (flag res : Byte → Byte → Byte) (x y : RegIdx) (s : State) : State :=
  match s.params.vfOrder with
  | .latchedFlagFirst => (s.setReg vf (flag (s.reg x) (s.reg y))).setReg x (res (s.reg x) (s.reg y))
  | .latchedFlagLast => (s.setReg x (res (s.reg x) (s.reg y))).setReg vf (flag (s.reg x) (s.reg y))
  | .sequential =>
    (s.setReg vf (flag (s.reg x) (s.reg y))).setReg x
      (res ((s.setReg vf (flag (s.reg x) (s.reg y))).reg x) ((s.setReg vf (flag (s.reg x) (s.reg y))).reg y))

end Sys2Proof.Machine
end

