-- ==== Sys2Proof/Machine/Operands.lean ====
section
/-! DEFINITION. Operand forms (30_encoding.md R67, R68): zero-extended immediates and registers, and the key index of
the key skips (45_timers_keys.md R138). Register operands are `State.reg`; there is no other operand form. -/

namespace Sys2Proof.Machine

/-- `zext_16(nnn)` (R9, R67). -/
def zextAddr (nnn : Addr12) : Word := nnn.setWidth 16

/-- `zext_16(b)` of a byte (R9). -/
def zextByte (b : Byte) : Word := b.setWidth 16

/-- `KeyIdx(v)` (R138): the low nibble under `Wrap`; under `Fault`, `none` is the RangeFault of `v > 0x0F`. -/
def State.keyIdx (s : State) (v : Byte) : Option (Fin 16) :=
  match s.params.oob with
  | .wrap => some (v.extractLsb' 0 4).toFin
  | .fault => if v > 0x0F then none else some (v.extractLsb' 0 4).toFin

/-- `keys[k]` (R32). -/
def State.key (s : State) (k : Fin 16) : Bool := s.keys[k.val]

end Sys2Proof.Machine
end

