-- ==== Sys2Proof/Machine/Alu.lean ====
section
/-! DEFINITION. Register loads, the 8-bit ALU and the random byte (42_alu.md R102 to R116). -/

namespace Sys2Proof.Machine

/-- 6xnn `LD Vx, nn` (R104). -/
def execLdImm (x : RegIdx) (nn : Byte) (s : State) : Result := .next ((s.setReg x nn).advance 2)

/-- 7xnn `ADD Vx, nn` (R105): the carry is dropped. -/
def execAddImm (x : RegIdx) (nn : Byte) (s : State) : Result := .next ((s.setReg x (s.reg x + nn)).advance 2)

/-- 8xy0 `LD Vx, Vy` (R106). -/
def execLdReg (x y : RegIdx) (s : State) : Result := .next ((s.setReg x (s.reg y)).advance 2)

/-- 8xy1 `OR Vx, Vy` (R107): VF is not reset. -/
def execOrReg (x y : RegIdx) (s : State) : Result := .next ((s.setReg x (s.reg x ||| s.reg y)).advance 2)

/-- 8xy2 `AND Vx, Vy` (R108). -/
def execAndReg (x y : RegIdx) (s : State) : Result := .next ((s.setReg x (s.reg x &&& s.reg y)).advance 2)

/-- 8xy3 `XOR Vx, Vy` (R109). -/
def execXorReg (x y : RegIdx) (s : State) : Result := .next ((s.setReg x (s.reg x ^^^ s.reg y)).advance 2)

/-- 8xy4 `ADD Vx, Vy` (R110). -/
def execAddReg (x y : RegIdx) (s : State) : Result := .next ((s.writeFlagResult carryFlag addResult x y).advance 2)

/-- 8xy5 `SUB Vx, Vy` (R111). -/
def execSubReg (x y : RegIdx) (s : State) : Result := .next ((s.writeFlagResult noBorrowFlag subResult x y).advance 2)

/-- 8xy6 `SHR Vx` (R112): Vy is never read. -/
def execShr (x : RegIdx) (s : State) : Result := .next ((s.writeFlagResult shrFlag shrResult x x).advance 2)

/-- 8xyE `SHL Vx` (R113): Vy is never read. -/
def execShl (x : RegIdx) (s : State) : Result := .next ((s.writeFlagResult shlFlag shlResult x x).advance 2)

/-- `Draw(RNG)` (R10, R116): one byte of the provider, a free value; the state after it counts the draw. -/
def State.drawRandom (s : State) : Byte × State :=
  (Config.randomByte s.rngDraws, { s with rngDraws := s.rngDraws + 1 })

/-- Cxnn `RND Vx, nn` (R116). -/
def execRnd (x : RegIdx) (nn : Byte) (s : State) : Result :=
  .next ((s.drawRandom.2.setReg x (s.drawRandom.1 &&& nn)).advance 2)

end Sys2Proof.Machine
end

