-- ==== Sys2Proof/Machine/ControlFlow.lean ====
section
/-! DEFINITION. Control transfer and the register-compare skips (41_control_flow.md R93 to R101). -/

namespace Sys2Proof.Machine

/-- 00EE `RET` (R93): the entry holds the call's own address, so 2 is added to it. -/
def execRet (s : State) : Result :=
  if h : s.sp.val = 0 then .next (s.raiseFault .stackUnderflow (encode .ret))
  else .next { s with sp := ⟨s.sp.val - 1, by omega⟩, pc := s.stackAt ⟨s.sp.val - 1, by omega⟩ + 2 }

/-- 1nnn `JP nnn` (R94). -/
def execJp (nnn : Addr12) (s : State) : Result := .next (s.setPc (zextAddr nnn))

/-- 2nnn `CALL nnn` (R95): the pushed value is the address of this CALL. -/
def execCall (nnn : Addr12) (s : State) : Result :=
  if h : s.sp.val = 16 then .next (s.raiseFault .stackOverflow (encode (.call nnn)))
  else .next { s with stack := s.stack.set s.sp.val s.pc (by omega), sp := ⟨s.sp.val + 1, by omega⟩, pc := zextAddr nnn }

/-- Bnnn `JP V0, nnn` (R96): always V0; at most 0x10FE, so nothing is truncated. -/
def execJpV0 (nnn : Addr12) (s : State) : Result := .next (s.setPc (zextAddr nnn + zextByte (s.reg 0)))

/-- 3xnn `SE Vx, nn` (R97). -/
def execSeImm (x : RegIdx) (nn : Byte) (s : State) : Result := .next (s.skipIf (s.reg x == nn))

/-- 4xnn `SNE Vx, nn` (R98). -/
def execSneImm (x : RegIdx) (nn : Byte) (s : State) : Result := .next (s.skipIf (s.reg x != nn))

/-- 5xy0 `SE Vx, Vy` (R99). -/
def execSeReg (x y : RegIdx) (s : State) : Result := .next (s.skipIf (s.reg x == s.reg y))

/-- 9xy0 `SNE Vx, Vy` (R100). -/
def execSneReg (x y : RegIdx) (s : State) : Result := .next (s.skipIf (s.reg x != s.reg y))

end Sys2Proof.Machine
end

