-- ==== Sys2Proof/Machine/Display.lean ====
section
/-! DEFINITION. Framebuffer control and the sprite rasterizer (44_display.md R124 to R131). -/

namespace Sys2Proof.Machine

/-- 00E0 `CLS` (R124): draw_flag is set whether or not a pixel changed (R130). -/
def execCls (s : State) : Result := .next ((s.setFb Framebuffer.clear).advance 2)

/-- The pixel of sprite row `r`, bit position `b` (0 is the most significant) for origin `(x0, y0)`: wraparound on both
axes (R126, R127). -/
def spritePixel (x0 y0 r b : Nat) : Pixel := (Fin.ofNat 64 (x0 + b), Fin.ofNat 32 (y0 + r))

/-- The pixels one row byte draws from bit position `b` on, `fuel` positions, in increasing `b` (R126). -/
def rowPixelsFrom (x0 y0 r : Nat) (row : Byte) : Nat → Nat → List Pixel
  | _, 0 => []
  | b, fuel + 1 =>
    if row.getLsbD (7 - b) then spritePixel x0 y0 r b :: rowPixelsFrom x0 y0 r row (b + 1) fuel
    else rowPixelsFrom x0 y0 r row (b + 1) fuel

/-- The pixels a sprite draws, rows top to bottom from row `r` on. They depend on the origin and the row bytes alone
(R131). -/
def spritePixelsFrom (x0 y0 : Nat) : Nat → List Byte → List Pixel
  | _, [] => []
  | r, row :: rows => rowPixelsFrom x0 y0 r row 0 8 ++ spritePixelsFrom x0 y0 (r + 1) rows

/-- The pixels of a whole sprite (R126). -/
def spritePixels (x0 y0 : Nat) (rows : List Byte) : List Pixel := spritePixelsFrom x0 y0 0 rows

/-- Draw pixels in order: a set pixel that is drawn is a collision, and every drawn pixel is XORed with 1 (R126). -/
def Framebuffer.blit : Framebuffer → Bool → List Pixel → Framebuffer × Bool
  | fb, hit, [] => (fb, hit)
  | fb, hit, p :: ps => (fb.toggle p).blit (hit || fb.get p) ps

/-- The origin column of a sprite, `V[x] mod 64` (R126). -/
def State.originX (s : State) (x : RegIdx) : Nat := (s.reg x).toNat % 64

/-- The origin row of a sprite, `V[y] mod 32` (R126). -/
def State.originY (s : State) (y : RegIdx) : Nat := (s.reg y).toNat % 32

/-- Draw the sprite rows at the origin of `Vx`, `Vy`, both read before VF is written (R126, D10), and write the
collision to VF (R128). -/
def State.drawSprite (s : State) (x y : RegIdx) (rows : List Byte) : State :=
  match s.fb.blit false (spritePixels (s.originX x) (s.originY y) rows) with
  | (fb, hit) => (s.setFb fb).setReg vf (flagByte hit)

/-- Dxyn `DRW Vx, Vy, n` (R126): all addresses before any write; `n = 0` draws no row (R129). -/
def execDrw (x y : RegIdx) (n : Nat) (s : State) : Result :=
  match s.indexAddrs n with
  | none => .next (s.raiseFault .rangeFault (encode (.drw x y n)))
  | some as => .next ((s.drawSprite x y (s.readAll as)).advance 2)

end Sys2Proof.Machine
end

