-- ==== Sys2Proof/Machine/Index.lean ====
section
/-! DEFINITION. The index register, the font address, BCD and the block transfers (43_index_memory.md R117 to R123). -/

namespace Sys2Proof.Machine

/-- Annn `LD I, nnn` (R117). -/
def execLdI (nnn : Addr12) (s : State) : Result := .next ((s.setI (zextAddr nnn)).advance 2)

/-- Fx1E `ADD I, Vx` (R118): a 16-bit wrap (R119), VF untouched. -/
def execAddI (x : RegIdx) (s : State) : Result := .next ((s.setI (s.i + zextByte (s.reg x))).advance 2)

/-- The glyph address of a digit by `FONT_INDEX` (R120). -/
def State.glyphAddr (s : State) (b : Byte) : Word :=
  match s.params.fontIndex with
  | .raw => zextByte b * 5
  | .lowNibble => zextByte (b &&& 0x0F) * 5

/-- Fx29 `LD F, Vx` (R120). -/
def execLdF (x : RegIdx) (s : State) : Result := .next ((s.setI (s.glyphAddr (s.reg x))).advance 2)

/-- Hundreds, tens and units of a byte, most significant first (R47, R121). -/
def bcdDigits (b : Byte) : List Byte := [b / 100, b / 10 % 10, b % 10]

/-- Fx33 `LD B, Vx` (R121): all addresses before any write. -/
def execBcd (x : RegIdx) (s : State) : Result :=
  match s.indexAddrs 3 with
  | none => .next (s.raiseFault .rangeFault (encode (.bcd x)))
  | some as => .next ((s.writeAll as (bcdDigits (s.reg x))).advance 2)

/-- `I <- I +_16 (x + 1)` (R119, R122, R123). -/
def State.bumpI (s : State) (x : RegIdx) : State := s.setI (s.i + BitVec.ofNat 16 (x.val + 1))

/-- Fx55 `LD [I], Vx` (R122): V0 to Vx, and I advances once. -/
def execStore (x : RegIdx) (s : State) : Result :=
  match s.indexAddrs (x.val + 1) with
  | none => .next (s.raiseFault .rangeFault (encode (.store x)))
  | some as => .next (((s.writeAll as (s.regsFrom 0 (x.val + 1))).bumpI x).advance 2)

/-- Fx65 `LD Vx, [I]` (R123): V0 to Vx, and I advances once. -/
def execLoad (x : RegIdx) (s : State) : Result :=
  match s.indexAddrs (x.val + 1) with
  | none => .next (s.raiseFault .rangeFault (encode (.load x)))
  | some as => .next (((s.setRegsFrom 0 (s.readAll as)).bumpI x).advance 2)

end Sys2Proof.Machine
end

