-- ==== Sys2Proof/Machine/TimersKeys.lean ====
section
/-! DEFINITION. The timer instructions and the key skips (45_timers_keys.md R134 to R139). The tick that ends every step
is `State.tick` (R132). -/

namespace Sys2Proof.Machine

/-- Fx07 `LD Vx, DT` (R134): the value before this step's tick. -/
def execLdFromDT (x : RegIdx) (s : State) : Result := .next ((s.setReg x s.dt).advance 2)

/-- Fx15 `LD DT, Vx` (R135). -/
def execLdDT (x : RegIdx) (s : State) : Result := .next ((s.setDT (s.reg x)).advance 2)

/-- Fx18 `LD ST, Vx` (R136): the write raises no pulse, only the tick does (R133). -/
def execLdST (x : RegIdx) (s : State) : Result := .next ((s.setST (s.reg x)).advance 2)

/-- Ex9E `SKP Vx` (R137). -/
def execSkp (x : RegIdx) (s : State) : Result :=
  match s.keyIdx (s.reg x) with
  | none => .next (s.raiseFault .rangeFault (encode (.skp x)))
  | some k => .next (s.skipIf (s.key k))

/-- ExA1 `SKNP Vx` (R139). -/
def execSknp (x : RegIdx) (s : State) : Result :=
  match s.keyIdx (s.reg x) with
  | none => .next (s.raiseFault .rangeFault (encode (.sknp x)))
  | some k => .next (s.skipIf (!s.key k))

end Sys2Proof.Machine
end

