-- ==== Sys2Proof/Machine/Cycle.lean ====
section
/-! DEFINITION. The phases of a step put together (40_step.md R81 to R89), and the placing of one instruction where the
next step fetches. -/

namespace Sys2Proof.Machine

/-- The end of the step after Execute: the tick, unless a fault was raised (R87, R88). -/
def finish : Result → Result
  | .next t => .next t.completeStep
  | .fault r => .fault r
  | .refused r => .refused r

/-- Execute what was decoded, or handle the unknown opcode (R85, R89, R145). -/
def State.executeDecoded (s : State) (opc : Word) : Except Reject Instr → Result
  | .ok i => exec i s
  | .error _ => .next (s.handleUnknown opc)

/-- A step of a running CORE: fetch, decode, execute, tick (R81, R89). -/
def State.cycle (s : State) : Result :=
  match s.fetch with
  | none => .next (s.raiseFault .rangeFault 0x0000)
  | some opc => finish (s.executeDecoded opc (decode opc))

/-- `Step()` (R89): inert unless `Running` (R82). -/
def State.stepOnce (s : State) : Result :=
  match s.runState with
  | .unloaded => .next s
  | .halted => .next s
  | .running => s.cycle

/-- A pc both of whose fetch addresses `Addr` accepts: the pc itself, or the entry point 0x0200 where `OOB_POLICY = Fault`
refuses it (R49, R83; log 16). -/
def State.fetchablePc (s : State) : Word :=
  match s.fetch with
  | some _ => s.pc
  | none => 0x0200

/-- Store a word at the two addresses the fetch at `pc` reads: the high byte first (R47, R83). -/
def State.placeWord (s : State) (opc : Word) : State :=
  (s.writeMem (s.pc.toNat % 4096) (opc.extractLsb' 8 8)).writeMem ((s.pc.toNat + 1) % 4096) (opc.extractLsb' 0 8)

/-- What a fetch needs beside the word: run state `Running` and a fetchable pc (R82, R83). -/
def State.readyToFetch (s : State) : State := { s with pc := s.fetchablePc, runState := .running }

end Sys2Proof.Machine
end

