-- ==== Sys2Proof/Machine/Step.lean ====
section
/-! DEFINITION. The step of the machine, and the state whose next step runs a given table word. -/

namespace Sys2Proof.Machine

/-- `Step()` (R89). -/
def step (s : State) : Host.Outcome State Fault Refusal := s.stepOnce

/-- `s` with a table word stored where `step` fetches next (log 15, 16). From `State.reset` it changes memory alone. -/
def State.withFetchWord (s : State) (nbits w : Nat) : State := s.readyToFetch.placeWord (tableWord nbits w)

end Sys2Proof.Machine
end

