-- ==== Sys2Proof/Machine/HostPort.lean ====
section
/-! DEFINITION. The host transactions of 10_state.md R40 to R44, each atomic and between steps (20_memory.md R58), and the
load, which is the only reset (70_reset_and_hazards.md R159 to R164). -/

namespace Sys2Proof.Machine

/-- The longest image, 3584 = 4096 - 512 bytes (R6, R40). -/
def maxImage : Nat := 3584

/-- Copy image bytes to `memory[a], memory[a + 1], …` (R160). -/
def State.copyImage : State → Nat → List Byte → State
  | s, _, [] => s
  | s, a, b :: bs => (s.writeMem a b).copyImage (a + 1) bs

/-- The reset of R159. The parameters stay (R39), the provider of random bytes is not rewound, and events already
emitted stay emitted (log 3, 8, 9). -/
def State.resetKeeping (s : State) : State :=
  { State.initial s.params with rngDraws := s.rngDraws, events := s.events }

/-- `Load(image)` in any run state (R40, R164): reset and copy; an image over 3584 bytes copies nothing and leaves the
CORE unloaded, its other state undefined and out of every port's reach (R161; log 13). The Bool says `Ok`. -/
def State.load (s : State) (image : List Byte) : State × Bool :=
  if image.length > maxImage then ({ s with runState := .unloaded }, false)
  else (s.resetKeeping.copyImage 0x200 image, true)

/-- `SetKey(index, pressed)` (R42); the index port is 4 bits wide. -/
def State.setKey (s : State) (k : Fin 16) (pressed : Bool) : State := { s with keys := s.keys.set k.val pressed }

/-- The 3-bit code of a cause (R34, R141). -/
def FaultCause.code : FaultCause → BitVec 3
  | .noCause => 0
  | .unknownOpcode => 1
  | .stackOverflow => 2
  | .stackUnderflow => 3
  | .rangeFault => 4

/-- The code Load answers for an image that is too long (R40, R141). -/
def loadErrorCode : BitVec 3 := 5

/-- What `ReadStatus` returns beside the run state (R44). -/
structure Status where
  causeCode : BitVec 3
  opcode : Word
  pc : Word
  unknown : Bool
  deriving DecidableEq, Repr

/-- The status registers (R34 to R36). -/
def State.status (s : State) : Status where
  causeCode := s.faultCause.code
  opcode := s.faultOpcode
  pc := s.faultPc
  unknown := s.unknownFlag

/-- The host's transactions (R40 to R44). -/
inductive HostOp where
  | load (image : List Byte)
  | step
  | setKey (k : Fin 16) (pressed : Bool)
  | readPixel (px py : Nat)
  | readDrawFlag
  | clearDrawFlag
  | readSoundFlag
  | clearSoundFlag
  | readStatus
  | clearUnknownFlag
  deriving DecidableEq, Repr

/-- What a transaction answers. -/
inductive Answer where
  /-- nothing (R41, R42 and the clears) -/
  | unit
  /-- Load's `Ok` (R40) -/
  | ok
  /-- Load's `LoadError` with its code (R40, R141) -/
  | loadError (code : BitVec 3)
  | bit (b : Bool)
  /-- `ReadStatus`; an unloaded CORE has a run state and no other defined status (R149; log 14) -/
  | status (runState : RunState) (rest : Option Status)
  deriving DecidableEq, Repr

/-- A port that reads a value of the state: refused on an unloaded CORE (R149; log 13). -/
def State.readPort (s : State) (b : Bool) : Host.Outcome (State × Answer) Fault Refusal :=
  match s.runState with
  | .unloaded => .refused .unloadedRead
  | .running => .next (s, .bit b)
  | .halted => .next (s, .bit b)

/-- `ReadPixel(px, py)` (R43): a coordinate outside the grid does not exist on the port. -/
def State.readPixelPort (s : State) (px py : Nat) : Host.Outcome (State × Answer) Fault Refusal :=
  if h : px < 64 ∧ py < 32 then s.readPort (s.pixel (⟨px, h.1⟩, ⟨py, h.2⟩)) else .refused .pixelOutsidePort

/-- `ReadStatus()` (R44). -/
def State.readStatusPort (s : State) : Answer :=
  match s.runState with
  | .unloaded => .status .unloaded none
  | .running => .status .running (some s.status)
  | .halted => .status .halted (some s.status)

/-- `Load(image)` with its answer (R40). -/
def State.loadPort (s : State) (image : List Byte) : State × Answer :=
  match s.load image with
  | (t, true) => (t, .ok)
  | (t, false) => (t, .loadError loadErrorCode)

/-- `Step()` as a transaction: it answers nothing (R41). -/
def State.stepPort (s : State) : Host.Outcome (State × Answer) Fault Refusal :=
  match Sys2Proof.Machine.step s with
  | .next t => .next (t, .unit)
  | .fault r => .fault r
  | .refused r => .refused r

/-- One host transaction (R40 to R44). The clears and SetKey act in every run state (log 17). -/
def transact (op : HostOp) (s : State) : Host.Outcome (State × Answer) Fault Refusal :=
  match op with
  | .load image => .next (s.loadPort image)
  | .step => s.stepPort
  | .setKey k pressed => .next (s.setKey k pressed, .unit)
  | .readPixel px py => s.readPixelPort px py
  | .readDrawFlag => s.readPort s.drawFlag
  | .clearDrawFlag => .next ({ s with drawFlag := false }, .unit)
  | .readSoundFlag => s.readPort s.soundFlag
  | .clearSoundFlag => .next ({ s with soundFlag := false }, .unit)
  | .readStatus => .next (s, s.readStatusPort)
  | .clearUnknownFlag => .next ({ s with unknownFlag := false }, .unit)

end Sys2Proof.Machine
end

