-- ==== Sys2Proof/Safety.lean ====
section
/-! DEFINITION. The terms claims are stated in: what an instruction leaves alone (the frame, 40_step.md R91), the
consistency of the status registers, the invariant of the machine, and the states a host can bring about. -/

namespace Sys2Proof.Machine

/-- What an instruction that raises no fault may write; everything not named stays. The pc is not spoken of. -/
structure Writes where
  /-- addresses of memory -/
  mem : Nat → Prop := fun _ => False
  /-- general registers -/
  regs : RegIdx → Prop := fun _ => False
  i : Prop := False
  sp : Prop := False
  /-- entries of the stack -/
  stack : Fin 16 → Prop := fun _ => False
  dt : Prop := False
  st : Prop := False
  /-- pixels of the framebuffer -/
  pixels : Pixel → Prop := fun _ => False
  drawFlag : Prop := False
  rngDraws : Prop := False

/-- `t` differs from `s` in nothing but pc and what `w` names. sound_flag, the keys, the status registers, the parameters
and the emitted events are written by no instruction at all (R91). -/
structure Frame (w : Writes) (s t : State) : Prop where
  mem : ∀ a, ¬ w.mem a → t.readMem a = s.readMem a
  regs : ∀ k, ¬ w.regs k → t.reg k = s.reg k
  i : ¬ w.i → t.i = s.i
  sp : ¬ w.sp → t.sp = s.sp
  stack : ∀ k, ¬ w.stack k → t.stackAt k = s.stackAt k
  dt : ¬ w.dt → t.dt = s.dt
  st : ¬ w.st → t.st = s.st
  pixels : ∀ p, ¬ w.pixels p → t.pixel p = s.pixel p
  drawFlag : ¬ w.drawFlag → t.drawFlag = s.drawFlag
  rngDraws : ¬ w.rngDraws → t.rngDraws = s.rngDraws
  soundFlag : t.soundFlag = s.soundFlag
  keys : ∀ k, t.key k = s.key k
  runState : t.runState = s.runState
  faultCause : t.faultCause = s.faultCause
  faultOpcode : t.faultOpcode = s.faultOpcode
  faultPc : t.faultPc = s.faultPc
  unknownFlag : t.unknownFlag = s.unknownFlag
  params : t.params = s.params
  events : t.events = s.events

/-- Every state element of R15 to R32 is the same in both: what a fatal fault leaves (R142, R143). -/
structure SameMachine (s t : State) : Prop where
  mem : ∀ a, t.readMem a = s.readMem a
  regs : ∀ k, t.reg k = s.reg k
  i : t.i = s.i
  pc : t.pc = s.pc
  sp : t.sp = s.sp
  stack : ∀ k, t.stackAt k = s.stackAt k
  dt : t.dt = s.dt
  st : t.st = s.st
  pixels : ∀ p, t.pixel p = s.pixel p
  drawFlag : t.drawFlag = s.drawFlag
  soundFlag : t.soundFlag = s.soundFlag
  keys : ∀ k, t.key k = s.key k

/-- The status registers after the fatal fault `cause` at `s` with the word `opc` (R142): the CORE is halted, and the
unknown flag, the emitted events and the model's own fields are untouched. -/
structure FaultRecorded (cause : FaultCause) (opc : Word) (s t : State) : Prop where
  runState : t.runState = .halted
  faultCause : t.faultCause = cause
  faultOpcode : t.faultOpcode = opc
  faultPc : t.faultPc = s.pc
  unknownFlag : t.unknownFlag = s.unknownFlag
  params : t.params = s.params
  rngDraws : t.rngDraws = s.rngDraws
  events : t.events = s.events

/-- The status registers and the rest of the machine after a step that reported the unknown opcode `opc` at `s` and went
on (R145 under `Skip` and `Stall`): the report, one event, one tick, and no register, memory, stack, pixel or key changed.
The pc is not spoken of. -/
structure UnknownReported (opc : Word) (s t : State) : Prop where
  faultCause : t.faultCause = .unknownOpcode
  faultOpcode : t.faultOpcode = opc
  faultPc : t.faultPc = s.pc
  unknownFlag : t.unknownFlag = true
  runState : t.runState = .running
  events : t.events =
    s.events ++ [.unknownOpcode opc (opc.extractLsb' 12 4)] ++ if s.st = 1 then [.soundPulse] else []
  mem : ∀ a, t.readMem a = s.readMem a
  regs : ∀ k, t.reg k = s.reg k
  i : t.i = s.i
  sp : t.sp = s.sp
  stack : ∀ k, t.stackAt k = s.stackAt k
  dt : t.dt.toNat = s.dt.toNat - 1
  st : t.st.toNat = s.st.toNat - 1
  pixels : ∀ p, t.pixel p = s.pixel p
  drawFlag : t.drawFlag = s.drawFlag
  soundFlag : t.soundFlag = (s.soundFlag || s.st == 1)
  keys : ∀ k, t.key k = s.key k
  params : t.params = s.params
  rngDraws : t.rngDraws = s.rngDraws

/-- The encoding a rule of R66 gives an instruction: its word selects the row, and decodes to the instruction. -/
def RowIs (i : Instr) (mask mtch : Word) : Prop := encode i &&& mask = mtch ∧ decode (encode i) = .ok i

/-- Pixel `p` is one a Dxyn with row addresses `as` draws: some row `r` has a set bit at position `b` (0 is the most
significant) and `p` is the wrapped coordinate of that bit for the origin `(V[x] mod 64, V[y] mod 32)` (R126, R127). -/
def State.SpriteLit (s : State) (x y : RegIdx) (as : List Nat) (p : Pixel) : Prop :=
  ∃ r b a, as[r]? = some a ∧ b < 8 ∧ (s.readMem a).getLsbD (7 - b) = true ∧
    p.1.val = ((s.reg x).toNat % 64 + b) % 64 ∧ p.2.val = ((s.reg y).toNat % 32 + r) % 32

/-- The condition of the RangeFault of R148 for an instruction: one of its addresses is refused, which is a candidate above
0xFFF (R49), or its key index exceeds 0x0F (R138). It faults only under `OOB_POLICY = Fault`. -/
def State.OutOfRange (s : State) (i : Instr) : Prop :=
  (∃ x y n, i = .drw x y n ∧ s.indexAddrs n = none) ∨
  ∃ x, (i = .bcd x ∧ s.indexAddrs 3 = none) ∨ ((i = .store x ∨ i = .load x) ∧ s.indexAddrs (x.val + 1) = none) ∨
    ((i = .skp x ∨ i = .sknp x) ∧ 0x0F < (s.reg x).toNat)

/-- The general registers an instruction may write, R20's table. -/
def MayWriteReg : Instr → RegIdx → Prop
  | .ldImm x _, k => k = x
  | .addImm x _, k => k = x
  | .ldReg x _, k => k = x
  | .orReg x _, k => k = x
  | .andReg x _, k => k = x
  | .xorReg x _, k => k = x
  | .addReg x _, k => k = x ∨ k = vf
  | .subReg x _, k => k = x ∨ k = vf
  | .shr x, k => k = x ∨ k = vf
  | .shl x, k => k = x ∨ k = vf
  | .rnd x _, k => k = x
  | .drw _ _ _, k => k = vf
  | .ldFromDT x, k => k = x
  | .load x, k => k ≤ x
  | .cls, _ => False
  | .ret, _ => False
  | .jp _, _ => False
  | .call _, _ => False
  | .seImm _ _, _ => False
  | .sneImm _ _, _ => False
  | .seReg _ _, _ => False
  | .sneReg _ _, _ => False
  | .ldI _, _ => False
  | .jpV0 _, _ => False
  | .skp _, _ => False
  | .sknp _, _ => False
  | .ldDT _, _ => False
  | .ldST _, _ => False
  | .addI _, _ => False
  | .ldF _, _ => False
  | .bcd _, _ => False
  | .store _, _ => False

/-- Memory is in its canonical form. -/
def State.MemCanonical (s : State) : Prop := s.mem.wf s.params.font = true

/-- What the status registers say agrees with the rest of the state (R33 to R36, R142, R145 to R148). -/
structure State.StatusConsistent (s : State) : Prop where
  haltedHasCause : s.runState = .halted → s.faultCause ≠ .noCause
  haltedAtFault : s.runState = .halted → s.faultPc = s.pc
  runningNotFatal : s.runState = .running → s.faultCause = .noCause ∨ s.faultCause = .unknownOpcode
  overflowFull : s.faultCause = .stackOverflow → s.sp = 16
  underflowEmpty : s.faultCause = .stackUnderflow → s.sp = 0
  rangeUnderFault : s.faultCause = .rangeFault → s.params.oob = .fault
  unknownHalted : s.runState = .halted → s.faultCause = .unknownOpcode → s.params.unknownOpcode = .halt
  unknownRunning : s.runState = .running → s.faultCause = .unknownOpcode → s.params.unknownOpcode ≠ .halt
  flagAfterReport : s.unknownFlag = true → s.faultCause ≠ .noCause ∧ s.params.unknownOpcode ≠ .halt
  nothingRecorded : s.faultCause = .noCause → s.faultOpcode = 0x0000 ∧ s.faultPc = 0x0000

/-- The invariant of the machine. -/
structure State.Inv (s : State) : Prop where
  memory : s.MemCanonical
  status : s.StatusConsistent

/-- The states a host can bring about: any state of a CORE that is powered on and not yet loaded (R162), and what the
transactions make of it. -/
inductive Reachable : State → Prop where
  | powerOn (s : State) (h : s.runState = .unloaded) : Reachable s
  | transaction (s t : State) (op : HostOp) (a : Answer) (hs : Reachable s) (h : transact op s = .next (t, a)) :
      Reachable t

end Sys2Proof.Machine
end

