-- ==== Sys2Proof/Certificates/Slice0/Obligations.lean ====
section
/-! DEFINITION. The statements about the machine, for the provers. Each docstring names the rule of spec/ it formalises;
a clause that rests on one of the spec's own decisions (D<n>, 92_eei_decisions.md) says so. Every statement holds for
every value of the parameters of R7, since they are a field of the state, and for every random byte. -/

open Sys2Proof Sys2Proof.Machine

/-! ### Encoding -/

/-- Encoding is the inverse of decoding (30_encoding.md section 6, derived there): encoding then decoding gives every well-formed instruction back, at every operand. -/
def Obligations.DecodeOfEncodeIsIdentity : Prop :=
  ∀ i : Instr, i.wf = true → decode (encode i) = .ok i

/-- R71: 8xy6 and 8xyE decode for every `y`, and no other word has a don't-care bit: a word that decodes to another
instruction is that instruction's encoding, bit for bit. Vy is not read: with another value in Vy the shift ends at the
same pc, with the same VF and the same value in every register but Vy itself. -/
def Obligations.OnlyShiftsIgnoreABit : Prop :=
  (∀ x y : RegIdx, decode (encodeXYN 0x8 x y 0x6) = .ok (.shr x) ∧ decode (encodeXYN 0x8 x y 0xE) = .ok (.shl x)) ∧
  (∀ (w : Word) (i : Instr), decode w = .ok i → (∀ x, i ≠ .shr x ∧ i ≠ .shl x) → encode i = w) ∧
  (∀ (x y : RegIdx) (b : Byte) (s : State), y ≠ x →
    (∃ t u, exec (.shr x) s = .next t ∧ exec (.shr x) (s.setReg y b) = .next u ∧ u.pc = t.pc ∧
      ∀ k, k ≠ y ∨ k = vf → u.reg k = t.reg k) ∧
    (∃ t u, exec (.shl x) s = .next t ∧ exec (.shl x) (s.setReg y b) = .next u ∧ u.pc = t.pc ∧
      ∀ k, k ≠ y ∨ k = vf → u.reg k = t.reg k))

/-- The opcode map (30_encoding.md sections 2 and 4, derived there; strictness is D14): decoding agrees with the table of masks. A word that decodes
selects its instruction's row and no other; a word that does not decode selects none; what decodes is well-formed. -/
def Obligations.DecodeAgreesWithTable : Prop :=
  (∀ (w : Word) (i : Instr), decode w = .ok i →
    i.wf = true ∧ i.row ∈ opcodeTable ∧ selects w i.row = true ∧
    ∀ row ∈ opcodeTable, selects w row = true → row = i.row) ∧
  (∀ (w : Word) (r : Reject), decode w = .error r →
    r = .unknownOpcode w ∧ ∀ row ∈ opcodeTable, selects w row = false)

/-- The unknown words, family by family (30_encoding.md section 5, derived there; the strictness is D14, D15). -/
def Obligations.UnknownWordsByFamily : Prop :=
  ∀ w : Word, decode w = .error (.unknownOpcode w) ↔
    (w.toNat / 4096 = 0x0 ∧ w.toNat ≠ 0x00E0 ∧ w.toNat ≠ 0x00EE) ∨
    (w.toNat / 4096 = 0x5 ∧ w.toNat % 16 ≠ 0) ∨
    (w.toNat / 4096 = 0x8 ∧ w.toNat % 16 ∈ [0x7, 0x8, 0x9, 0xA, 0xB, 0xC, 0xD, 0xF]) ∨
    (w.toNat / 4096 = 0x9 ∧ w.toNat % 16 ≠ 0) ∨
    (w.toNat / 4096 = 0xE ∧ w.toNat % 256 ∉ [0x9E, 0xA1]) ∨
    (w.toNat / 4096 = 0xF ∧ w.toNat % 256 ∉ [0x07, 0x15, 0x18, 0x1E, 0x29, 0x33, 0x55, 0x65])

/-- Words written out from the encodings of the opcode map (30_encoding.md section 2) decode to what they stand for (a
sanity statement). That 0x8127, which the map does not list, is rejected is the spec's decisions D14 and D15 (log 12). -/
def Obligations.SomeWordsDecode : Prop :=
  decode 0x00E0 = .ok .cls ∧ decode 0x2321 = .ok (.call 0x321) ∧ decode 0x3A42 = .ok (.seImm 0xA 0x42) ∧
  decode 0x8125 = .ok (.subReg 0x1 0x2) ∧ decode 0xA2F0 = .ok (.ldI 0x2F0) ∧ decode 0xD12F = .ok (.drw 0x1 0x2 15) ∧
  decode 0xE5A1 = .ok (.sknp 0x5) ∧ decode 0xF265 = .ok (.load 0x2) ∧
  decode 0x8127 = .error (.unknownOpcode 0x8127)

/-! ### Register loads and the ALU -/

/-- R104: 6xnn writes nn to Vx, advances 2, and changes nothing else. -/
def Obligations.LdImmLoadsImmediate : Prop :=
  ∀ (x : RegIdx) (nn : Byte) (s : State), RowIs (.ldImm x nn) 0xF000 0x6000 ∧
    ∃ t, exec (.ldImm x nn) s = .next t ∧ t.reg x = nn ∧ t.pc = s.pc + 2 ∧ Frame { regs := (· = x) } s t

/-- R105: 7xnn adds nn to Vx modulo 256, drops the carry, advances 2, and changes nothing else (VF neither, unless x = F). -/
def Obligations.AddImmWrapsWithoutFlag : Prop :=
  ∀ (x : RegIdx) (nn : Byte) (s : State), RowIs (.addImm x nn) 0xF000 0x7000 ∧
    ∃ t, exec (.addImm x nn) s = .next t ∧ (t.reg x).toNat = ((s.reg x).toNat + nn.toNat) % 256 ∧ t.pc = s.pc + 2 ∧
      Frame { regs := (· = x) } s t

/-- R106: 8xy0 copies Vy to Vx, advances 2, and changes nothing else. -/
def Obligations.LdRegCopies : Prop :=
  ∀ (x y : RegIdx) (s : State), RowIs (.ldReg x y) 0xF00F 0x8000 ∧
    ∃ t, exec (.ldReg x y) s = .next t ∧ t.reg x = s.reg y ∧ t.pc = s.pc + 2 ∧ Frame { regs := (· = x) } s t

/-- R107 to R109: 8xy1, 8xy2, 8xy3 write the bitwise or, and, exclusive or of Vx and Vy to Vx, advance 2, and change
nothing else; VF is not reset. -/
def Obligations.LogicOpsAreBitwise : Prop :=
  ∀ (x y : RegIdx) (s : State),
    (RowIs (.orReg x y) 0xF00F 0x8001 ∧ ∃ t, exec (.orReg x y) s = .next t ∧
      (∀ k, (t.reg x).getLsbD k = ((s.reg x).getLsbD k || (s.reg y).getLsbD k)) ∧ t.pc = s.pc + 2 ∧
      Frame { regs := (· = x) } s t) ∧
    (RowIs (.andReg x y) 0xF00F 0x8002 ∧ ∃ t, exec (.andReg x y) s = .next t ∧
      (∀ k, (t.reg x).getLsbD k = ((s.reg x).getLsbD k && (s.reg y).getLsbD k)) ∧ t.pc = s.pc + 2 ∧
      Frame { regs := (· = x) } s t) ∧
    (RowIs (.xorReg x y) 0xF00F 0x8003 ∧ ∃ t, exec (.xorReg x y) s = .next t ∧
      (∀ k, (t.reg x).getLsbD k = ((s.reg x).getLsbD k ^^ (s.reg y).getLsbD k)) ∧ t.pc = s.pc + 2 ∧
      Frame { regs := (· = x) } s t)

/-- 8xy4, 8xy5 (42_alu.md): sum and difference modulo 256 in Vx, carry and no-borrow in VF, where neither operand is VF;
with x = F or y = F see `VfOperandOutcomes`, which rests on D9. They advance 2 and write only Vx and VF. -/
def Obligations.AddSubResultAndFlag : Prop :=
  ∀ (x y : RegIdx) (s : State),
    (∃ t, exec (.addReg x y) s = .next t ∧ t.pc = s.pc + 2 ∧ Frame { regs := fun k => k = x ∨ k = vf } s t ∧
      (x ≠ vf → y ≠ vf → (t.reg x).toNat = ((s.reg x).toNat + (s.reg y).toNat) % 256 ∧
        (t.reg vf).toNat = if (s.reg x).toNat + (s.reg y).toNat > 255 then 1 else 0)) ∧
    (∃ t, exec (.subReg x y) s = .next t ∧ t.pc = s.pc + 2 ∧ Frame { regs := fun k => k = x ∨ k = vf } s t ∧
      (x ≠ vf → y ≠ vf → (t.reg x).toNat = ((s.reg x).toNat + 256 - (s.reg y).toNat) % 256 ∧
        (t.reg vf).toNat = if (s.reg x).toNat ≥ (s.reg y).toNat then 1 else 0))

/-- 8xy6, 8xyE (42_alu.md): Vx shifted by one, the bit shifted out in VF, where x is not F; with x = F see
`VfOperandOutcomes`, which rests on D9. They advance 2 and write only Vx and VF. -/
def Obligations.ShiftsResultAndFlag : Prop :=
  ∀ (x : RegIdx) (s : State),
    (∃ t, exec (.shr x) s = .next t ∧ t.pc = s.pc + 2 ∧ Frame { regs := fun k => k = x ∨ k = vf } s t ∧
      (x ≠ vf → (t.reg x).toNat = (s.reg x).toNat / 2 ∧ (t.reg vf).toNat = (s.reg x).toNat % 2)) ∧
    (∃ t, exec (.shl x) s = .next t ∧ t.pc = s.pc + 2 ∧ Frame { regs := fun k => k = x ∨ k = vf } s t ∧
      (x ≠ vf → (t.reg x).toNat = (s.reg x).toNat * 2 % 256 ∧ (t.reg vf).toNat = (s.reg x).toNat / 128))

/-- The table of VF outcomes (42_alu.md, derived there from D9's three write orders): the final VF, and Vx where it is another register,
of 8xy4, 8xy5, 8xy6, 8xyE with x = F or y = F, for each value of VF_ORDER. -/
def Obligations.VfOperandOutcomes : Prop :=
  ∀ (x y : RegIdx) (s : State), x ≠ vf → y ≠ vf →
    (∃ t, exec (.addReg vf y) s = .next t ∧ (t.reg vf).toNat =
      match s.params.vfOrder with
      | .latchedFlagFirst => ((s.reg vf).toNat + (s.reg y).toNat) % 256
      | .latchedFlagLast => if (s.reg vf).toNat + (s.reg y).toNat > 255 then 1 else 0
      | .sequential => ((if (s.reg vf).toNat + (s.reg y).toNat > 255 then 1 else 0) + (s.reg y).toNat) % 256) ∧
    (∃ t, exec (.addReg x vf) s = .next t ∧
      (t.reg vf).toNat = (if (s.reg x).toNat + (s.reg vf).toNat > 255 then 1 else 0) ∧ (t.reg x).toNat =
      match s.params.vfOrder with
      | .latchedFlagFirst => ((s.reg x).toNat + (s.reg vf).toNat) % 256
      | .latchedFlagLast => ((s.reg x).toNat + (s.reg vf).toNat) % 256
      | .sequential => ((s.reg x).toNat + if (s.reg x).toNat + (s.reg vf).toNat > 255 then 1 else 0) % 256) ∧
    (∃ t, exec (.addReg vf vf) s = .next t ∧ (t.reg vf).toNat =
      match s.params.vfOrder with
      | .latchedFlagFirst => ((s.reg vf).toNat + (s.reg vf).toNat) % 256
      | .latchedFlagLast => if (s.reg vf).toNat ≥ 0x80 then 1 else 0
      | .sequential => if (s.reg vf).toNat ≥ 0x80 then 2 else 0) ∧
    (∃ t, exec (.subReg vf y) s = .next t ∧ (t.reg vf).toNat =
      match s.params.vfOrder with
      | .latchedFlagFirst => ((s.reg vf).toNat + 256 - (s.reg y).toNat) % 256
      | .latchedFlagLast => if (s.reg vf).toNat ≥ (s.reg y).toNat then 1 else 0
      | .sequential => ((if (s.reg vf).toNat ≥ (s.reg y).toNat then 1 else 0) + 256 - (s.reg y).toNat) % 256) ∧
    (∃ t, exec (.subReg x vf) s = .next t ∧
      (t.reg vf).toNat = (if (s.reg x).toNat ≥ (s.reg vf).toNat then 1 else 0) ∧ (t.reg x).toNat =
      match s.params.vfOrder with
      | .latchedFlagFirst => ((s.reg x).toNat + 256 - (s.reg vf).toNat) % 256
      | .latchedFlagLast => ((s.reg x).toNat + 256 - (s.reg vf).toNat) % 256
      | .sequential => ((s.reg x).toNat + 256 - if (s.reg x).toNat ≥ (s.reg vf).toNat then 1 else 0) % 256) ∧
    (∃ t, exec (.subReg vf vf) s = .next t ∧ (t.reg vf).toNat =
      match s.params.vfOrder with
      | .latchedFlagFirst => 0
      | .latchedFlagLast => 1
      | .sequential => 0) ∧
    (∃ t, exec (.shr vf) s = .next t ∧ (t.reg vf).toNat =
      match s.params.vfOrder with
      | .latchedFlagFirst => (s.reg vf).toNat / 2
      | .latchedFlagLast => (s.reg vf).toNat % 2
      | .sequential => 0) ∧
    (∃ t, exec (.shl vf) s = .next t ∧ (t.reg vf).toNat =
      match s.params.vfOrder with
      | .latchedFlagFirst => (s.reg vf).toNat * 2 % 256
      | .latchedFlagLast => (s.reg vf).toNat / 128
      | .sequential => 2 * ((s.reg vf).toNat / 128))

/-- Cxnn (42_alu.md; the byte is a free draw, D31, log 8): Vx becomes the byte drawn under the mask, whatever that byte
is; one byte is drawn; the instruction advances 2 and changes nothing else. -/
def Obligations.RndMasksOneDraw : Prop :=
  ∀ (x : RegIdx) (nn : Byte) (s : State), ∃ t, exec (.rnd x nn) s = .next t ∧
    (∀ k, (t.reg x).getLsbD k = ((Config.randomByte s.rngDraws).getLsbD k && nn.getLsbD k)) ∧
    (nn = 0x00 → t.reg x = 0x00) ∧ (nn = 0xFF → t.reg x = Config.randomByte s.rngDraws) ∧
    t.rngDraws = s.rngDraws + 1 ∧ t.pc = s.pc + 2 ∧ Frame { regs := (· = x), rngDraws := True } s t

/-! ### Control flow -/

/-- R94: 1nnn sets pc to nnn, zero-extended, and changes nothing else. -/
def Obligations.JpSetsPc : Prop :=
  ∀ (nnn : Addr12) (s : State), RowIs (.jp nnn) 0xF000 0x1000 ∧
    ∃ t, exec (.jp nnn) s = .next t ∧ t.pc.toNat = nnn.toNat ∧ Frame {} s t

/-- Bnnn (41_control_flow.md; no truncation, D13): pc is nnn + V0 as an integer, at most 0x10FE; nothing else changes. -/
def Obligations.JpV0AddsV0 : Prop :=
  ∀ (nnn : Addr12) (s : State), ∃ t, exec (.jpV0 nnn) s = .next t ∧
    t.pc.toNat = nnn.toNat + (s.reg 0).toNat ∧ t.pc.toNat ≤ 0x10FE ∧ Frame {} s t

/-- 2nnn (41_control_flow.md): below 16 nested calls the call pushes its own address and jumps; at sp = 16 it is a
StackOverflow with the precise fault entry of the spec's decision D7. -/
def Obligations.CallPushesOrOverflows : Prop :=
  ∀ (nnn : Addr12) (s : State),
    (∀ h : s.sp.val < 16, ∃ t, exec (.call nnn) s = .next t ∧ t.stackAt ⟨s.sp.val, h⟩ = s.pc ∧
      t.sp.val = s.sp.val + 1 ∧ t.pc.toNat = nnn.toNat ∧
      Frame { sp := True, stack := fun k => k.val = s.sp.val } s t) ∧
    (s.sp.val = 16 → ∃ t, exec (.call nnn) s = .next t ∧ SameMachine s t ∧
      FaultRecorded .stackOverflow (encode (.call nnn)) s t)

/-- 00EE (41_control_flow.md): above an empty stack the return pops and goes to the popped address plus 2, leaving the
entry (D32); at sp = 0 it is a StackUnderflow with the precise fault entry of the spec's decision D7. -/
def Obligations.RetPopsOrUnderflows : Prop :=
  ∀ s : State,
    (∀ h : 0 < s.sp.val, ∃ t, exec .ret s = .next t ∧ t.sp.val = s.sp.val - 1 ∧
      t.pc = s.stackAt ⟨s.sp.val - 1, by have := s.sp.isLt; omega⟩ + 2 ∧ Frame { sp := True } s t) ∧
    (s.sp.val = 0 → ∃ t, exec .ret s = .next t ∧ SameMachine s t ∧ FaultRecorded .stackUnderflow 0x00EE s t)

/-- 2nnn then 00EE (41_control_flow.md): a call that does not overflow, then a return, ends after the call with the stack
depth, registers and memory it had. -/
def Obligations.ReturnUndoesCall : Prop :=
  ∀ (nnn : Addr12) (s : State), s.sp.val < 16 → ∃ t u, exec (.call nnn) s = .next t ∧ exec .ret t = .next u ∧
    u.pc = s.pc + 2 ∧ Frame { stack := fun k => k.val = s.sp.val } s u

/-- R97, R98: 3xnn and 4xnn advance 4 if Vx = nn (if Vx ≠ nn), else 2, and change nothing else. -/
def Obligations.SkipsOnImmediate : Prop :=
  ∀ (x : RegIdx) (nn : Byte) (s : State),
    (RowIs (.seImm x nn) 0xF000 0x3000 ∧ ∃ t, exec (.seImm x nn) s = .next t ∧
      t.pc = s.pc + (if s.reg x = nn then 4 else 2) ∧ Frame {} s t) ∧
    (RowIs (.sneImm x nn) 0xF000 0x4000 ∧ ∃ t, exec (.sneImm x nn) s = .next t ∧
      t.pc = s.pc + (if s.reg x ≠ nn then 4 else 2) ∧ Frame {} s t)

/-- 5xy0 and 9xy0 (41_control_flow.md; only N = 0 decodes, D14): they advance 4 if Vx = Vy (if Vx ≠ Vy), else 2, and
change nothing else. -/
def Obligations.SkipsOnRegisters : Prop :=
  ∀ (x y : RegIdx) (s : State),
    (∃ t, exec (.seReg x y) s = .next t ∧ t.pc = s.pc + (if s.reg x = s.reg y then 4 else 2) ∧ Frame {} s t) ∧
    (∃ t, exec (.sneReg x y) s = .next t ∧ t.pc = s.pc + (if s.reg x ≠ s.reg y then 4 else 2) ∧ Frame {} s t) ∧
    (∀ n : Nibble, n ≠ 0 → decode (encodeXYN 0x5 x y n) = .error (.unknownOpcode (encodeXYN 0x5 x y n)) ∧
      decode (encodeXYN 0x9 x y n) = .error (.unknownOpcode (encodeXYN 0x9 x y n)))

/-! ### Index register and memory -/

/-- R117: Annn sets I to nnn, zero-extended, advances 2, and changes nothing else. -/
def Obligations.LdILoadsAddress : Prop :=
  ∀ (nnn : Addr12) (s : State), RowIs (.ldI nnn) 0xF000 0xA000 ∧
    ∃ t, exec (.ldI nnn) s = .next t ∧ t.i.toNat = nnn.toNat ∧ t.pc = s.pc + 2 ∧ Frame { i := True } s t

/-- Fx1E (43_index_memory.md; the 16-bit wrap is D12): I becomes I + Vx modulo 65536; VF and everything else stay. -/
def Obligations.AddIWrapsAt16Bits : Prop :=
  ∀ (x : RegIdx) (s : State), ∃ t, exec (.addI x) s = .next t ∧
    t.i.toNat = (s.i.toNat + (s.reg x).toNat) % 65536 ∧ t.pc = s.pc + 2 ∧ Frame { i := True } s t

/-- Fx29 (43_index_memory.md; FONT_INDEX is D11): I becomes 5·Vx under `Raw`, 5·(Vx mod 16) under `LowNibble`. -/
def Obligations.LdFPointsAtGlyph : Prop :=
  ∀ (x : RegIdx) (s : State), ∃ t, exec (.ldF x) s = .next t ∧
    t.i.toNat = (match s.params.fontIndex with
      | .raw => (s.reg x).toNat * 5
      | .lowNibble => (s.reg x).toNat % 16 * 5) ∧
    t.pc = s.pc + 2 ∧ Frame { i := True } s t

/-- The addresses of an I-based access (20_memory.md; OOB_POLICY is D4): offset k is at (I mod 4096 + k) mod 4096, and an
access is refused exactly when OOB_POLICY = Fault and it passes 0xFFF. -/
def Obligations.IndexAddressesFollowAddr : Prop :=
  ∀ (s : State) (n : Nat),
    (s.indexAddrs n = none ↔ s.params.oob = .fault ∧ 0 < n ∧ 0xFFF < s.i.toNat % 4096 + (n - 1)) ∧
    ∀ as, s.indexAddrs n = some as → as.length = n ∧ ∀ k a, as[k]? = some a → a = (s.i.toNat % 4096 + k) % 4096

/-- Fx33 (43_index_memory.md; addresses by D4): the hundreds, tens and units of Vx go to the three addresses of the
access, most significant first; I and every other byte stay. -/
def Obligations.BcdStoresDigits : Prop :=
  ∀ (x : RegIdx) (s : State) (as : List Nat), s.indexAddrs 3 = some as →
    ∃ t a0 a1 a2, exec (.bcd x) s = .next t ∧ as = [a0, a1, a2] ∧
      (t.readMem a0).toNat = (s.reg x).toNat / 100 ∧ (t.readMem a1).toNat = (s.reg x).toNat / 10 % 10 ∧
      (t.readMem a2).toNat = (s.reg x).toNat % 10 ∧ t.pc = s.pc + 2 ∧ Frame { mem := (· ∈ as) } s t

/-- Fx55 (43_index_memory.md; addresses by D4, wrap of I by D12): V0 to Vx go to the addresses of the access, in order;
I advances by x + 1 once; every other byte and every register stay. -/
def Obligations.StoreWritesV0ToVx : Prop :=
  ∀ (x : RegIdx) (s : State) (as : List Nat), s.indexAddrs (x.val + 1) = some as →
    ∃ t, exec (.store x) s = .next t ∧ as.length = x.val + 1 ∧
      (∀ (k : RegIdx) (a : Nat), as[k.val]? = some a → t.readMem a = s.reg k) ∧
      t.i.toNat = (s.i.toNat + x.val + 1) % 65536 ∧ t.pc = s.pc + 2 ∧ Frame { mem := (· ∈ as), i := True } s t

/-- Fx65 (43_index_memory.md; addresses by D4, wrap of I by D12): V0 to Vx take the bytes of the access, in order; I
advances by x + 1 once; registers above x and all of memory stay. -/
def Obligations.LoadReadsV0ToVx : Prop :=
  ∀ (x : RegIdx) (s : State) (as : List Nat), s.indexAddrs (x.val + 1) = some as →
    ∃ t, exec (.load x) s = .next t ∧ as.length = x.val + 1 ∧
      (∀ (k : RegIdx) (a : Nat), as[k.val]? = some a → t.reg k = s.readMem a) ∧
      t.i.toNat = (s.i.toNat + x.val + 1) % 65536 ∧ t.pc = s.pc + 2 ∧ Frame { regs := (· ≤ x), i := True } s t

/-- Fx55, Annn, Fx65 (43_index_memory.md, the source's own property S5): storing V0 to Vx at I and loading them back from
the same place restores them, and each of the two advances I by x + 1 once. -/
def Obligations.LoadUndoesStore : Prop :=
  ∀ (x : RegIdx) (nnn : Addr12) (s : State) (as : List Nat), s.i.toNat = nnn.toNat →
    s.indexAddrs (x.val + 1) = some as →
    ∃ t u w, exec (.store x) s = .next t ∧ exec (.ldI nnn) t = .next u ∧ exec (.load x) u = .next w ∧
      (∀ k, w.reg k = s.reg k) ∧ t.i = s.i + BitVec.ofNat 16 (x.val + 1) ∧ w.i = s.i + BitVec.ofNat 16 (x.val + 1)

/-- Stores and the fetch share memory (20_memory.md; coherence is D19, addresses D4): a byte stored by Fx55 at an address
the next fetch reads is the byte it fetches. -/
def Obligations.StoredBytesAreFetched : Prop :=
  ∀ (x k : RegIdx) (s t : State) (as : List Nat) (opc : Word), s.indexAddrs (x.val + 1) = some as →
    exec (.store x) s = .next t → t.fetch = some opc →
    (as[k.val]? = some (t.pc.toNat % 4096) → opc.toNat / 256 = (s.reg k).toNat) ∧
    (as[k.val]? = some ((t.pc.toNat + 1) % 4096) → opc.toNat % 256 = (s.reg k).toNat)

/-- The RangeFault of the instructions that can raise it (60_exceptions.md; the condition is D4 and D5, the precise entry
D7): where an address or a key index is refused, nothing changes but the status registers. -/
def Obligations.OutOfRangeIsPreciseFault : Prop :=
  ∀ (x y : RegIdx) (n : Nat) (s : State),
    (s.indexAddrs 3 = none → ∃ t, exec (.bcd x) s = .next t ∧ SameMachine s t ∧
      FaultRecorded .rangeFault (encode (.bcd x)) s t) ∧
    (s.indexAddrs (x.val + 1) = none → ∃ t, exec (.store x) s = .next t ∧ SameMachine s t ∧
      FaultRecorded .rangeFault (encode (.store x)) s t) ∧
    (s.indexAddrs (x.val + 1) = none → ∃ t, exec (.load x) s = .next t ∧ SameMachine s t ∧
      FaultRecorded .rangeFault (encode (.load x)) s t) ∧
    (s.indexAddrs n = none → ∃ t, exec (.drw x y n) s = .next t ∧ SameMachine s t ∧
      FaultRecorded .rangeFault (encode (.drw x y n)) s t) ∧
    (s.params.oob = .fault → 0x0F < (s.reg x).toNat →
      (∃ t, exec (.skp x) s = .next t ∧ SameMachine s t ∧ FaultRecorded .rangeFault (encode (.skp x)) s t) ∧
      (∃ t, exec (.sknp x) s = .next t ∧ SameMachine s t ∧ FaultRecorded .rangeFault (encode (.sknp x)) s t))

/-! ### Display -/

/-- R124: 00E0 clears every pixel, sets draw_flag, advances 2, and changes nothing else (VF neither). -/
def Obligations.ClsClearsScreen : Prop :=
  ∀ s : State, RowIs .cls 0xFFFF 0x00E0 ∧
    ∃ t, exec .cls s = .next t ∧ (∀ p, t.pixel p = false) ∧ t.drawFlag = true ∧ t.pc = s.pc + 2 ∧
      Frame { pixels := fun _ => True, drawFlag := True } s t

/-- Dxyn (44_display.md; addresses by D4, the origin read before VF is reset by D10): exactly the pixels of the sprite's
set bits flip, VF is 1 if one of them was set and 0 if none, draw_flag is set, and nothing else changes. -/
def Obligations.DrwXorsSpriteAndDetectsCollision : Prop :=
  ∀ (x y : RegIdx) (n : Nat) (s : State) (as : List Nat), n < 16 → s.indexAddrs n = some as →
    ∃ t, exec (.drw x y n) s = .next t ∧ as.length = n ∧
      (∀ p, s.SpriteLit x y as p → t.pixel p = !s.pixel p) ∧
      ((∃ p, s.SpriteLit x y as p ∧ s.pixel p = true) → t.reg vf = 1) ∧
      ((∀ p, s.SpriteLit x y as p → s.pixel p = false) → t.reg vf = 0) ∧
      t.drawFlag = true ∧ t.pc = s.pc + 2 ∧
      Frame { regs := (· = vf), pixels := s.SpriteLit x y as, drawFlag := True } s t

/-- Dxy0 (44_display.md; that it runs is D28): it draws nothing, resets VF, sets draw_flag, advances 2, and changes
nothing else. -/
def Obligations.DrwOfNoRowsResetsVf : Prop :=
  ∀ (x y : RegIdx) (s : State), ∃ t, exec (.drw x y 0) s = .next t ∧ t.reg vf = 0 ∧ t.drawFlag = true ∧
    t.pc = s.pc + 2 ∧ Frame { regs := (· = vf), drawFlag := True } s t

/-- Two draws of the same sprite (44_display.md R126, R128; the source's property S6 and the derived law R131): with no framebuffer write between
them, the same origin and the same row bytes, the second draw leaves the framebuffer as before the first. It reports a
collision exactly when a pixel it draws was clear before the first draw, so for a sprite with a set bit on clear pixels,
which is S6 and R131; where every pixel drawn was set before the first draw R126 gives VF = 0 (log 18). -/
def Obligations.SecondDrawErasesFirst : Prop :=
  ∀ (x y x' y' : RegIdx) (n : Nat) (s t s' u : State) (as as' : List Nat), n < 16 →
    s.indexAddrs n = some as → s'.indexAddrs n = some as' →
    exec (.drw x y n) s = .next t → (∀ p, s'.pixel p = t.pixel p) →
    (s'.reg x').toNat % 64 = (s.reg x).toNat % 64 → (s'.reg y').toNat % 32 = (s.reg y).toNat % 32 →
    as'.map s'.readMem = as.map s.readMem → exec (.drw x' y' n) s' = .next u →
    (∀ p, u.pixel p = s.pixel p) ∧
    ((∃ p, s.SpriteLit x y as p ∧ s.pixel p = false) → u.reg vf = 1) ∧
    ((∀ p, s.SpriteLit x y as p → s.pixel p = true) → u.reg vf = 0) ∧
    ((∃ a ∈ as, s.readMem a ≠ 0) → (∀ p, s.SpriteLit x y as p → s.pixel p = false) → u.reg vf = 1)

/-- Dxyn on a clear screen (44_display.md, derived there): after 00E0 a draw reports no collision. -/
def Obligations.DrawAfterClearNeverCollides : Prop :=
  ∀ (x y : RegIdx) (n : Nat) (s t : State) (as : List Nat), exec .cls s = .next t → t.indexAddrs n = some as →
    n < 16 → ∃ u, exec (.drw x y n) t = .next u ∧ u.reg vf = 0

/-! ### Timers and keys -/

/-- R134: Fx07 writes DT, as it is before this step's tick, to Vx, advances 2, and changes nothing else; the tick then
takes DT down by one and leaves Vx. -/
def Obligations.LdFromDTReadsBeforeTick : Prop :=
  ∀ (x : RegIdx) (s : State), RowIs (.ldFromDT x) 0xF0FF 0xF007 ∧
    ∃ t, exec (.ldFromDT x) s = .next t ∧ t.reg x = s.dt ∧ t.pc = s.pc + 2 ∧ Frame { regs := (· = x) } s t ∧
      t.tick.reg x = s.dt ∧ t.tick.dt.toNat = s.dt.toNat - 1

/-- R135: Fx15 writes Vx to DT, advances 2, and changes nothing else; the same step's tick leaves Vx - 1, or 0. -/
def Obligations.LdDTIsTickedAtOnce : Prop :=
  ∀ (x : RegIdx) (s : State), RowIs (.ldDT x) 0xF0FF 0xF015 ∧
    ∃ t, exec (.ldDT x) s = .next t ∧ t.dt = s.reg x ∧ t.pc = s.pc + 2 ∧ Frame { dt := True } s t ∧
      t.tick.dt.toNat = (s.reg x).toNat - 1

/-- R136: Fx18 writes Vx to ST, advances 2, and changes nothing else; the same step's tick leaves Vx - 1, or 0, and raises
the sound pulse exactly when Vx = 1. -/
def Obligations.LdSTPulsesOnlyFromOne : Prop :=
  ∀ (x : RegIdx) (s : State), RowIs (.ldST x) 0xF0FF 0xF018 ∧
    ∃ t, exec (.ldST x) s = .next t ∧ t.st = s.reg x ∧ t.pc = s.pc + 2 ∧ Frame { st := True } s t ∧
      t.tick.st.toNat = (s.reg x).toNat - 1 ∧
      (s.reg x = 1 → t.tick.soundFlag = true ∧ t.tick.events = s.events ++ [.soundPulse]) ∧
      (s.reg x ≠ 1 → t.tick.soundFlag = s.soundFlag ∧ t.tick.events = s.events)

/-- Ex9E and ExA1 (45_timers_keys.md; the key index is D5): where the index is not refused, they advance 4 if the latch
of key Vx mod 16 is set (is not set), else 2, and change nothing else. -/
def Obligations.KeySkipsReadLatch : Prop :=
  ∀ (x : RegIdx) (k : Fin 16) (s : State), s.params.oob = .wrap ∨ (s.reg x).toNat ≤ 0x0F →
    k.val = (s.reg x).toNat % 16 →
    (∃ t, exec (.skp x) s = .next t ∧ t.pc = s.pc + (if s.key k = true then 4 else 2) ∧ Frame {} s t) ∧
    (∃ t, exec (.sknp x) s = .next t ∧ t.pc = s.pc + (if s.key k = false then 4 else 2) ∧ Frame {} s t)

/-- The tick of a completed step (45_timers_keys.md; once per step is D16, the pulse D22 and D34; that an unknown opcode
is ticked too is D6). Of every instruction, Fx15 and Fx18 included: where `exec` answers `u`, the step ends with both
timers of `u` one lower and clamped at 0, and sound_flag and one SoundPulse come exactly when ST of `u` is 1. So every
step but one of Fx15 takes the old DT down by one, and every step but one of Fx18 the old ST, with its pulse; an unknown
opcode that is passed over or stalled on is such a step. -/
def Obligations.EveryCompletedStepTicksOnce : Prop :=
  ∀ (s t : State) (opc : Word), s.runState = .running → s.fetch = some opc → step s = .next t →
    t.runState = .running →
    (∀ i, decode opc = .ok i → ∃ u, exec i s = .next u ∧ t.dt.toNat = u.dt.toNat - 1 ∧ t.st.toNat = u.st.toNat - 1 ∧
      t.soundFlag = (u.soundFlag || u.st == 1) ∧ t.events = u.events ++ if u.st = 1 then [.soundPulse] else []) ∧
    ((∀ x, decode opc ≠ .ok (.ldDT x)) → t.dt.toNat = s.dt.toNat - 1) ∧
    ((∀ x, decode opc ≠ .ok (.ldST x)) → t.st.toNat = s.st.toNat - 1 ∧ t.soundFlag = (s.soundFlag || s.st == 1) ∧
      t.events.count .soundPulse = s.events.count .soundPulse + (if s.st = 1 then 1 else 0) ∧
      ∀ i, decode opc = .ok i → t.events = s.events ++ if s.st = 1 then [.soundPulse] else [])

/-- The timer law (45_timers_keys.md, derived there; the source's property S10, the tick rate D16): over n completed
steps, unknown opcodes that are reported included, DT goes down by n, clamped at 0, if no step runs Fx15; and if none runs
Fx18, ST goes down by n, clamped at 0, and the pulse comes once, and only if ST passed from 1 to 0 on the way. -/
def Obligations.TimersCountDownOverSteps : Prop :=
  ∀ (run : Nat → State) (n : Nat),
    (∀ k, k < n → (run k).runState = .running ∧ step (run k) = .next (run (k + 1)) ∧
      (run (k + 1)).runState = .running) →
    ((∀ k opc x, k < n → (run k).fetch = some opc → decode opc ≠ .ok (.ldDT x)) →
      (run n).dt.toNat = (run 0).dt.toNat - n) ∧
    ((∀ k opc x, k < n → (run k).fetch = some opc → decode opc ≠ .ok (.ldST x)) →
      (run n).st.toNat = (run 0).st.toNat - n ∧
      (run n).events.count .soundPulse = (run 0).events.count .soundPulse +
        if 0 < (run 0).st.toNat ∧ (run 0).st.toNat ≤ n then 1 else 0)

/-! ### The step -/

/-- Fetch (40_step.md; addresses by D4): the word is big-endian, the byte at pc above the byte at pc + 1; where
OOB_POLICY = Fault refuses one of the two addresses, the step is a precise RangeFault with opcode 0x0000 (D7). -/
def Obligations.FetchIsBigEndianOrFaults : Prop :=
  ∀ s : State,
    (s.params.oob = .wrap ∨ s.pc.toNat < 0xFFF → ∃ opc, s.fetch = some opc ∧
      opc.toNat = (s.readMem (s.pc.toNat % 4096)).toNat * 256 + (s.readMem ((s.pc.toNat + 1) % 4096)).toNat) ∧
    (s.runState = .running → s.params.oob = .fault → 0xFFF ≤ s.pc.toNat →
      ∃ t, step s = .next t ∧ SameMachine s t ∧ FaultRecorded .rangeFault 0x0000 s t)

/-- Step (40_step.md): when the two bytes at pc decode to a well-formed instruction, the step is its execution at this
state followed by the tick, or its execution alone where that raised a fault. -/
def Obligations.StepRunsDecodedInstruction : Prop :=
  ∀ (s u : State) (i : Instr) (rest : List Byte), s.runState = .running →
    (s.params.oob = .wrap ∨ s.pc.toNat < 0xFFF) →
    decodeBytes [s.readMem (s.pc.toNat % 4096), s.readMem ((s.pc.toNat + 1) % 4096)] = .ok (i, rest) →
    exec i s = .next u →
    i.wf = true ∧ (u.runState = .running → step s = .next u.tick) ∧ (u.runState = .halted → step s = .next u)

/-- A step of a CORE that is not running (40_step.md; inertness is D25) changes nothing and emits nothing. -/
def Obligations.StepIsInertUnlessRunning : Prop :=
  ∀ s : State, s.runState ≠ .running → step s = .next s

/-- An unknown opcode (60_exceptions.md; the three policies are D6, the record D26): under `Skip` it is reported and
passed over, under `Stall` it is reported and pc stays, under `Halt` it is a precise fatal fault. That the report's event
comes before the SoundPulse of the same step's tick, in one list, is the model's choice (log 9). -/
def Obligations.UnknownOpcodeFollowsPolicy : Prop :=
  ∀ (s : State) (opc : Word) (r : Reject), s.runState = .running → s.fetch = some opc → decode opc = .error r →
    ∃ t, step s = .next t ∧
      (s.params.unknownOpcode = .skip → UnknownReported opc s t ∧ t.pc = s.pc + 2) ∧
      (s.params.unknownOpcode = .stall → UnknownReported opc s t ∧ t.pc = s.pc) ∧
      (s.params.unknownOpcode = .halt → SameMachine s t ∧ FaultRecorded .unknownOpcode opc s t)

/-- Faults are precise (40_step.md, 60_exceptions.md; D7): a step that halts a running CORE leaves all of R15 to R32 and
records the cause, the fetched word (0x0000 where none was fetched) and the pc. -/
def Obligations.HaltingStepIsPrecise : Prop :=
  ∀ s t : State, s.runState = .running → step s = .next t → t.runState = .halted →
    SameMachine s t ∧ t.faultCause ≠ .noCause ∧ FaultRecorded t.faultCause (s.fetch.getD 0x0000) s t

/-- Why a CORE halts (60_exceptions.md's table of conditions; D4 to D8): each cause comes from the condition it names. A
RangeFault is one of a fetch at or above 0xFFF, or of an instruction with an address above 0xFFF or a key index above
0x0F (`State.OutOfRange`), and only under `OOB_POLICY = Fault`. -/
def Obligations.EachCauseHasItsCondition : Prop :=
  ∀ s t : State, s.runState = .running → step s = .next t → t.runState = .halted →
    (t.faultCause = .unknownOpcode → s.params.unknownOpcode = .halt ∧
      ∃ opc, s.fetch = some opc ∧ decode opc = .error (.unknownOpcode opc)) ∧
    (t.faultCause = .stackOverflow → s.sp = 16 ∧ ∃ opc nnn, s.fetch = some opc ∧ decode opc = .ok (.call nnn)) ∧
    (t.faultCause = .stackUnderflow → s.sp = 0 ∧ ∃ opc, s.fetch = some opc ∧ decode opc = .ok .ret) ∧
    (t.faultCause = .rangeFault → s.params.oob = .fault ∧ ((s.fetch = none ∧ 0xFFF ≤ s.pc.toNat) ∨
      ∃ opc i, s.fetch = some opc ∧ decode opc = .ok i ∧ s.OutOfRange i))

/-- No other condition exists (60_exceptions.md): every instruction in every state, and every step, answers a next
state. That a fatal condition is itself a next state, halted with its status recorded, is the model's reading (log 10). -/
def Obligations.NothingStopsTheMachine : Prop :=
  (∀ (i : Instr) (s : State), ∃ t, exec i s = .next t) ∧ ∀ s : State, ∃ t, step s = .next t

/-- The whole-machine frame (40_step.md and 10_state.md, derived there): only the instructions that name a register, the
stack, memory, the framebuffer, I, a timer or the provider write it; no instruction writes a key, sound_flag or a
parameter. -/
def Obligations.OnlyNamedInstructionsWrite : Prop :=
  ∀ (i : Instr) (s t : State), exec i s = .next t →
    (∀ k, ¬ MayWriteReg i k → t.reg k = s.reg k) ∧
    ((∀ x, i ≠ .bcd x ∧ i ≠ .store x) → ∀ a, t.readMem a = s.readMem a) ∧
    ((∀ nnn, i ≠ .call nnn) → ∀ k, t.stackAt k = s.stackAt k) ∧
    ((∀ nnn, i ≠ .call nnn) → i ≠ .ret → t.sp = s.sp) ∧
    (i ≠ .cls → (∀ x y n, i ≠ .drw x y n) → (∀ p, t.pixel p = s.pixel p) ∧ t.drawFlag = s.drawFlag) ∧
    ((∀ nnn, i ≠ .ldI nnn) → (∀ x, i ≠ .addI x ∧ i ≠ .ldF x ∧ i ≠ .store x ∧ i ≠ .load x) → t.i = s.i) ∧
    ((∀ x, i ≠ .ldDT x) → t.dt = s.dt) ∧ ((∀ x, i ≠ .ldST x) → t.st = s.st) ∧
    ((∀ x nn, i ≠ .rnd x nn) → t.rngDraws = s.rngDraws) ∧
    (∀ k, t.key k = s.key k) ∧ t.soundFlag = s.soundFlag ∧ t.events = s.events ∧ t.params = s.params

/-- What a step never does (10_state.md, 60_exceptions.md; D24, D25): it writes no key and no parameter, clears no flag
of the host's, takes back no event, starts no CORE that is not running and unloads none. -/
def Obligations.StepLeavesHostsStateAlone : Prop :=
  ∀ s t : State, step s = .next t →
    (∀ k, t.key k = s.key k) ∧ t.params = s.params ∧ (s.drawFlag = true → t.drawFlag = true) ∧
    (s.soundFlag = true → t.soundFlag = true) ∧ (s.unknownFlag = true → t.unknownFlag = true) ∧
    s.events <+: t.events ∧ (s.runState ≠ .running → t.runState = s.runState) ∧
    (s.runState = .running → t.runState = .running ∨ t.runState = .halted)

/-! ### Reset, load and the host's ports -/

/-- The reset state (10_state.md's table): memory holds the font and zeros and pc is 0x200, as the source says; the other
values are the spec's own decisions D3, D8, D24, D26 (log 1). The font is the parameter's, here the default table (log 2). -/
def Obligations.ResetState : Prop :=
  (∀ a : Nat, (∀ h : a < 80, State.reset.readMem a = Font.standard[a]) ∧ (80 ≤ a → State.reset.readMem a = 0)) ∧
  State.reset.pc = 0x0200 ∧ (∀ k, State.reset.reg k = 0) ∧ State.reset.i = 0 ∧ State.reset.sp = 0 ∧
  (∀ k, State.reset.stackAt k = 0) ∧ State.reset.dt = 0 ∧ State.reset.st = 0 ∧ (∀ p, State.reset.pixel p = false) ∧
  State.reset.drawFlag = false ∧ State.reset.soundFlag = false ∧ (∀ k, State.reset.key k = false) ∧
  State.reset.runState = .running ∧ State.reset.faultCause = .noCause ∧ State.reset.faultOpcode = 0 ∧
  State.reset.faultPc = 0 ∧ State.reset.unknownFlag = false

/-- R160: a load of at most 3584 bytes copies the image verbatim from 0x200 on; all other memory outside the font table
and the image is zero; an empty image is accepted and is the reset alone, and beside that the load writes no state but
memory. -/
def Obligations.LoadCopiesImage : Prop :=
  ∀ (s : State) (image : List Byte), image.length ≤ 3584 →
    ∃ t r, transact (.load image) s = .next (t, .ok) ∧ transact (.load []) s = .next (r, .ok) ∧
      (∀ j (h : j < image.length), t.readMem (0x200 + j) = image[j]) ∧
      (∀ a (h : a < 80), t.readMem a = s.params.font[a]) ∧
      (∀ a, 80 ≤ a → a < 0x200 → t.readMem a = 0) ∧ (∀ a, 0x200 + image.length ≤ a → t.readMem a = 0) ∧
      { t with mem := r.mem } = r

/-- Load is the only reset and an image that is too long loads nothing (70_reset_and_hazards.md; D3, D24): in any run
state a good load leaves every element at its reset value with the parameters it had (log 3), and an image over 3584 bytes
answers LoadError, code 5, and leaves the CORE unloaded with its steps inert. -/
def Obligations.LoadResetsOrAnswersError : Prop :=
  ∀ (s : State) (image : List Byte),
    (image.length ≤ 3584 → ∃ t, transact (.load image) s = .next (t, .ok) ∧ t.runState = .running ∧ t.pc = 0x0200 ∧
      (∀ k, t.reg k = 0) ∧ t.i = 0 ∧ t.sp = 0 ∧ (∀ k, t.stackAt k = 0) ∧ t.dt = 0 ∧ t.st = 0 ∧
      (∀ p, t.pixel p = false) ∧ t.drawFlag = false ∧ t.soundFlag = false ∧ (∀ k, t.key k = false) ∧
      t.faultCause = .noCause ∧ t.faultOpcode = 0 ∧ t.faultPc = 0 ∧ t.unknownFlag = false ∧ t.params = s.params) ∧
    (3584 < image.length → ∃ t, transact (.load image) s = .next (t, .loadError 5) ∧ t.runState = .unloaded ∧
      step t = .next t)

/-- SetKey writes the latch of its index and nothing else, and the CORE never writes a key (10_state.md section 8). That
SetKey acts in every run state, Halted and Unloaded included, is the model's choice (log 17, log 13). -/
def Obligations.SetKeyWritesOneLatch : Prop :=
  (∀ (k : Fin 16) (b : Bool) (s : State), ∃ t, transact (.setKey k b) s = .next (t, .unit) ∧ t.key k = b ∧
    (∀ j, j ≠ k → t.key j = s.key j) ∧ { t with keys := s.keys } = s) ∧
  (∀ s t : State, step s = .next t → ∀ j, t.key j = s.key j)

/-- The display, audio and status ports (10_state.md; D26, D30, D34): on a loaded CORE a read answers the state and
changes nothing, a pixel outside 64 by 32 is refused, and a clear writes its flag alone. That an unloaded CORE refuses
the reads of a pixel (log 13), and that the clears act in every run state, Halted and Unloaded included (log 17), is the
model's choice. -/
def Obligations.PortsReadAndClear : Prop :=
  ∀ s : State,
    (s.runState ≠ .unloaded →
      (∀ p : Pixel, transact (.readPixel p.1.val p.2.val) s = .next (s, .bit (s.pixel p))) ∧
      transact .readDrawFlag s = .next (s, .bit s.drawFlag) ∧
      transact .readSoundFlag s = .next (s, .bit s.soundFlag) ∧
      transact .readStatus s = .next (s, .status s.runState (some
        { causeCode := s.faultCause.code, opcode := s.faultOpcode, pc := s.faultPc, unknown := s.unknownFlag }))) ∧
    (∀ px py : Nat, 64 ≤ px ∨ 32 ≤ py → transact (.readPixel px py) s = .refused .pixelOutsidePort) ∧
    (s.runState = .unloaded → ∀ p : Pixel, transact (.readPixel p.1.val p.2.val) s = .refused .unloadedRead) ∧
    transact .clearDrawFlag s = .next ({ s with drawFlag := false }, .unit) ∧
    transact .clearSoundFlag s = .next ({ s with soundFlag := false }, .unit) ∧
    transact .clearUnknownFlag s = .next ({ s with unknownFlag := false }, .unit)

/-! ### Invariants -/

/-- The invariant holds at reset. -/
def Obligations.ResetMeetsInvariant : Prop := State.reset.Inv

/-- Every step keeps the invariant: memory stays in canonical form inside its 4096 addresses, and the status registers
stay consistent with pc, sp and the parameters (10_state.md, 60_exceptions.md; the status registers are D7, D8, D26). -/
def Obligations.StepKeepsInvariant : Prop :=
  ∀ s t : State, s.Inv → step s = .next t → t.Inv

/-- Whatever a host does from power-on, in any order, a CORE that is loaded meets the invariant (10_state.md,
70_reset_and_hazards.md; D24). That power-on is any unloaded state (log 13) and that transactions fall between steps
(log 23) is the model's. -/
def Obligations.LoadedCoreMeetsInvariant : Prop :=
  ∀ s : State, Reachable s → s.runState ≠ .unloaded → s.Inv

/-- Every host transaction keeps it that a CORE is unloaded or meets the invariant, whatever state it starts in
(10_state.md, 70_reset_and_hazards.md; D24). That a transaction is one atomic function between steps is log 23, what it
does to an unloaded CORE log 13 and log 17. -/
def Obligations.TransactionsKeepInvariant : Prop :=
  ∀ (op : HostOp) (a : Answer) (s t : State), s.runState = .unloaded ∨ s.Inv → transact op s = .next (t, a) →
    t.runState = .unloaded ∨ t.Inv
end

