-- ==== Sys2Proof/Laws/Decode.lean ====
section
/-! SUPPORT. The fields of a word and the words of the three formats as numbers (30_encoding.md R64, R65, R80): a field of
an encoded word is the field it was made of, and a word is made of its fields. -/

namespace Sys2Proof

/-! ### As numbers -/

theorem toNat_append {m n : Nat} (a : BitVec m) (b : BitVec n) : (a ++ b).toNat = a.toNat * 2 ^ n + b.toNat := by
  rw [BitVec.toNat_append, ← Nat.shiftLeft_add_eq_or_of_lt b.isLt, Nat.shiftLeft_eq]

theorem toNat_wordOfBytes (hi lo : Byte) : (wordOfBytes hi lo).toNat = hi.toNat * 256 + lo.toNat :=
  toNat_append hi lo

theorem toNat_encodeXYN (f : Nibble) (x y : RegIdx) (n : Nibble) :
    (encodeXYN f x y n).toNat = f.toNat * 4096 + x.val * 256 + y.val * 16 + n.toNat := by
  have h1 : (f ++ (BitVec.ofFin x : Nibble)).toNat = f.toNat * 16 + x.val := toNat_append f (BitVec.ofFin x : Nibble)
  have h2 : (f ++ (BitVec.ofFin x : Nibble) ++ (BitVec.ofFin y : Nibble)).toNat =
      (f ++ (BitVec.ofFin x : Nibble)).toNat * 16 + y.val :=
    toNat_append (f ++ (BitVec.ofFin x : Nibble)) (BitVec.ofFin y : Nibble)
  have h3 : (encodeXYN f x y n).toNat =
      (f ++ (BitVec.ofFin x : Nibble) ++ (BitVec.ofFin y : Nibble)).toNat * 16 + n.toNat :=
    toNat_append (f ++ (BitVec.ofFin x : Nibble) ++ (BitVec.ofFin y : Nibble)) n
  rw [h3, h2, h1]
  ring

theorem toNat_encodeXNN (f : Nibble) (x : RegIdx) (nn : Byte) :
    (encodeXNN f x nn).toNat = f.toNat * 4096 + x.val * 256 + nn.toNat := by
  have h1 : (f ++ (BitVec.ofFin x : Nibble)).toNat = f.toNat * 16 + x.val := toNat_append f (BitVec.ofFin x : Nibble)
  have h2 : (encodeXNN f x nn).toNat = (f ++ (BitVec.ofFin x : Nibble)).toNat * 256 + nn.toNat :=
    toNat_append (f ++ (BitVec.ofFin x : Nibble)) nn
  rw [h2, h1]
  ring

theorem toNat_encodeNNN (f : Nibble) (nnn : Addr12) : (encodeNNN f nnn).toNat = f.toNat * 4096 + nnn.toNat :=
  toNat_append f nnn

theorem toNat_family (opc : Word) : (Opcode.family opc).toNat = opc.toNat / 4096 := by
  have := opc.isLt
  simp only [Opcode.family, BitVec.extractLsb'_toNat, Nat.shiftRight_eq_div_pow]
  omega

theorem val_x (opc : Word) : (Opcode.x opc).val = opc.toNat / 256 % 16 := by
  have h : (Opcode.x opc).val = (opc.extractLsb' 8 4).toNat := rfl
  rw [h, BitVec.extractLsb'_toNat, Nat.shiftRight_eq_div_pow]

theorem val_y (opc : Word) : (Opcode.y opc).val = opc.toNat / 16 % 16 := by
  have h : (Opcode.y opc).val = (opc.extractLsb' 4 4).toNat := rfl
  rw [h, BitVec.extractLsb'_toNat, Nat.shiftRight_eq_div_pow]

theorem toNat_n (opc : Word) : (Opcode.n opc).toNat = opc.toNat % 16 := by
  rw [Opcode.n, BitVec.extractLsb'_toNat]; rfl

theorem toNat_nn (opc : Word) : (Opcode.nn opc).toNat = opc.toNat % 256 := by
  rw [Opcode.nn, BitVec.extractLsb'_toNat]; rfl

theorem toNat_nnn (opc : Word) : (Opcode.nnn opc).toNat = opc.toNat % 4096 := by
  rw [Opcode.nnn, BitVec.extractLsb'_toNat]; rfl

/-! ### Fields of the three formats -/

@[simp] theorem family_encodeXYN (f : Nibble) (x y : RegIdx) (n : Nibble) :
    Opcode.family (encodeXYN f x y n) = f := by
  apply BitVec.eq_of_toNat_eq
  rw [toNat_family, toNat_encodeXYN]
  omega

@[simp] theorem x_encodeXYN (f : Nibble) (x y : RegIdx) (n : Nibble) : Opcode.x (encodeXYN f x y n) = x := by
  apply Fin.ext
  rw [val_x, toNat_encodeXYN]
  omega

@[simp] theorem y_encodeXYN (f : Nibble) (x y : RegIdx) (n : Nibble) : Opcode.y (encodeXYN f x y n) = y := by
  apply Fin.ext
  rw [val_y, toNat_encodeXYN]
  omega

@[simp] theorem n_encodeXYN (f : Nibble) (x y : RegIdx) (n : Nibble) : Opcode.n (encodeXYN f x y n) = n := by
  apply BitVec.eq_of_toNat_eq
  rw [toNat_n, toNat_encodeXYN]
  omega

@[simp] theorem family_encodeXNN (f : Nibble) (x : RegIdx) (nn : Byte) : Opcode.family (encodeXNN f x nn) = f := by
  apply BitVec.eq_of_toNat_eq
  rw [toNat_family, toNat_encodeXNN]
  omega

@[simp] theorem x_encodeXNN (f : Nibble) (x : RegIdx) (nn : Byte) : Opcode.x (encodeXNN f x nn) = x := by
  apply Fin.ext
  rw [val_x, toNat_encodeXNN]
  omega

@[simp] theorem nn_encodeXNN (f : Nibble) (x : RegIdx) (nn : Byte) : Opcode.nn (encodeXNN f x nn) = nn := by
  apply BitVec.eq_of_toNat_eq
  rw [toNat_nn, toNat_encodeXNN]
  omega

@[simp] theorem family_encodeNNN (f : Nibble) (nnn : Addr12) : Opcode.family (encodeNNN f nnn) = f := by
  apply BitVec.eq_of_toNat_eq
  rw [toNat_family, toNat_encodeNNN]
  omega

@[simp] theorem nnn_encodeNNN (f : Nibble) (nnn : Addr12) : Opcode.nnn (encodeNNN f nnn) = nnn := by
  apply BitVec.eq_of_toNat_eq
  rw [toNat_nnn, toNat_encodeNNN]
  omega

/-! ### A word is made of its fields -/

theorem encodeXYN_fields (opc : Word) :
    encodeXYN (Opcode.family opc) (Opcode.x opc) (Opcode.y opc) (Opcode.n opc) = opc := by
  apply BitVec.eq_of_toNat_eq
  rw [toNat_encodeXYN, toNat_family, val_x, val_y, toNat_n]
  omega

theorem encodeXNN_fields (opc : Word) : encodeXNN (Opcode.family opc) (Opcode.x opc) (Opcode.nn opc) = opc := by
  apply BitVec.eq_of_toNat_eq
  rw [toNat_encodeXNN, toNat_family, val_x, toNat_nn]
  omega

theorem encodeNNN_fields (opc : Word) : encodeNNN (Opcode.family opc) (Opcode.nnn opc) = opc := by
  apply BitVec.eq_of_toNat_eq
  rw [toNat_encodeNNN, toNat_family, toNat_nnn]
  omega

/-! ### Bytes -/

@[simp] theorem wordOfBytes_extract (w : Word) : wordOfBytes (w.extractLsb' 8 8) (w.extractLsb' 0 8) = w := by
  apply BitVec.eq_of_toNat_eq
  have := w.isLt
  simp only [toNat_wordOfBytes, BitVec.extractLsb'_toNat, Nat.shiftRight_eq_div_pow]
  omega

/-! ### Masks (R66): which fields a mask keeps -/

theorem and_append {m n : Nat} (a c : BitVec m) (b d : BitVec n) : (a ++ b) &&& (c ++ d) = (a &&& c) ++ (b &&& d) :=
  BitVec.and_append

theorem encodeXYN_and (f f' : Nibble) (x x' y y' : RegIdx) (n n' : Nibble) :
    encodeXYN f x y n &&& encodeXYN f' x' y' n' =
      (f &&& f') ++ ((BitVec.ofFin x : Nibble) &&& (BitVec.ofFin x' : Nibble)) ++
        ((BitVec.ofFin y : Nibble) &&& (BitVec.ofFin y' : Nibble)) ++ (n &&& n') := by
  have h1 := and_append f f' (BitVec.ofFin x : Nibble) (BitVec.ofFin x' : Nibble)
  have h2 := and_append (f ++ (BitVec.ofFin x : Nibble)) (f' ++ (BitVec.ofFin x' : Nibble))
    (BitVec.ofFin y : Nibble) (BitVec.ofFin y' : Nibble)
  have h3 := and_append (f ++ (BitVec.ofFin x : Nibble) ++ (BitVec.ofFin y : Nibble))
    (f' ++ (BitVec.ofFin x' : Nibble) ++ (BitVec.ofFin y' : Nibble)) n n'
  rw [h1] at h2
  rw [h2] at h3
  exact h3

theorem encodeXNN_and (f f' : Nibble) (x x' : RegIdx) (nn nn' : Byte) :
    encodeXNN f x nn &&& encodeXNN f' x' nn' =
      (f &&& f') ++ ((BitVec.ofFin x : Nibble) &&& (BitVec.ofFin x' : Nibble)) ++ (nn &&& nn') := by
  have h1 := and_append f f' (BitVec.ofFin x : Nibble) (BitVec.ofFin x' : Nibble)
  have h2 := and_append (f ++ (BitVec.ofFin x : Nibble)) (f' ++ (BitVec.ofFin x' : Nibble)) nn nn'
  rw [h1] at h2
  exact h2

theorem nibble_and_zero (a : Nibble) : a &&& (BitVec.ofFin (0 : RegIdx) : Nibble) = BitVec.ofFin (0 : RegIdx) :=
  BitVec.and_zero

theorem and_F000 (opc : Word) : opc &&& 0xF000 = encodeXYN (Opcode.family opc) 0 0 0 := by
  have h := encodeXYN_and (Opcode.family opc) (BitVec.allOnes 4) (Opcode.x opc) 0 (Opcode.y opc) 0 (Opcode.n opc)
    (BitVec.ofFin (0 : RegIdx))
  rw [encodeXYN_fields, nibble_and_zero, nibble_and_zero, nibble_and_zero, BitVec.and_allOnes] at h
  exact h

theorem and_F00F (opc : Word) : opc &&& 0xF00F = encodeXYN (Opcode.family opc) 0 0 (Opcode.n opc) := by
  have h := encodeXYN_and (Opcode.family opc) (BitVec.allOnes 4) (Opcode.x opc) 0 (Opcode.y opc) 0 (Opcode.n opc)
    (BitVec.allOnes 4)
  rw [encodeXYN_fields, nibble_and_zero, nibble_and_zero, BitVec.and_allOnes, BitVec.and_allOnes] at h
  exact h

theorem and_F0FF (opc : Word) : opc &&& 0xF0FF = encodeXNN (Opcode.family opc) 0 (Opcode.nn opc) := by
  have h := encodeXNN_and (Opcode.family opc) (BitVec.allOnes 4) (Opcode.x opc) 0 (Opcode.nn opc) (BitVec.allOnes 8)
  rw [encodeXNN_fields, nibble_and_zero, BitVec.and_allOnes, BitVec.and_allOnes] at h
  exact h

/-! ### Conditions on fields as conditions on numbers -/

theorem family_eq_iff (w : Word) (k : Nibble) : Opcode.family w = k ↔ w.toNat / 4096 = k.toNat := by
  rw [← BitVec.toNat_inj, toNat_family]

theorem n_eq_iff (w : Word) (k : Nibble) : Opcode.n w = k ↔ w.toNat % 16 = k.toNat := by
  rw [← BitVec.toNat_inj, toNat_n]

theorem nn_eq_iff (w : Word) (k : Byte) : Opcode.nn w = k ↔ w.toNat % 256 = k.toNat := by
  rw [← BitVec.toNat_inj, toNat_nn]

/-- A nibble that is none of 0 to 14 is 15. -/
theorem nibble_eq_F {f : Nibble} (h : ∀ k < 15, f ≠ BitVec.ofNat 4 k) : f = 0xF := by
  have hlt := f.isLt
  by_contra hc
  refine h f.toNat ?_ (by simp)
  have : f.toNat ≠ 15 := fun e => hc (BitVec.eq_of_toNat_eq e)
  omega

/-! ### What a word that decodes is made of -/

theorem eq_encodeXNN {w : Word} {f : Nibble} (hf : Opcode.family w = f) :
    w = encodeXNN f (Opcode.x w) (Opcode.nn w) := by
  rw [← hf, encodeXNN_fields]

theorem eq_encodeXNN_sub {w : Word} {f : Nibble} {nn : Byte} (hf : Opcode.family w = f) (h : Opcode.nn w = nn) :
    w = encodeXNN f (Opcode.x w) nn := by
  rw [← hf, ← h, encodeXNN_fields]

theorem eq_encodeNNN {w : Word} {f : Nibble} (hf : Opcode.family w = f) : w = encodeNNN f (Opcode.nnn w) := by
  rw [← hf, encodeNNN_fields]

theorem eq_encodeXYN {w : Word} {f n : Nibble} (hf : Opcode.family w = f) (hn : Opcode.n w = n) :
    w = encodeXYN f (Opcode.x w) (Opcode.y w) n := by
  rw [← hf, ← hn, encodeXYN_fields]

/-- `w` is a word of `i`: its encoding, or for the two shifts an encoding with any `y` (R71). -/
def IsWordOf (w : Word) (i : Instr) : Prop :=
  w = encode i ∨ (∃ x y, i = .shr x ∧ w = encodeXYN 0x8 x y 0x6) ∨ (∃ x y, i = .shl x ∧ w = encodeXYN 0x8 x y 0xE)

/-- What a word decodes to, said of one branch of the decoder: what it answers holds of the word, and what it rejects is
rejected under the word's own name. -/
def Decodes (w : Word) : Except Reject Instr → Prop
  | .ok i => i.wf = true ∧ IsWordOf w i
  | .error r => r = .unknownOpcode w

theorem Decodes.ite {w : Word} {c : Prop} [Decidable c] {a b : Except Reject Instr} (ha : c → Decodes w a)
    (hb : ¬ c → Decodes w b) : Decodes w (if c then a else b) := by
  split
  · exact ha ‹_›
  · exact hb ‹_›

theorem decodes_decode8 {w : Word} (f : Opcode.family w = 0x8) : Decodes w (decode8 w) := by
  unfold decode8
  refine Decodes.ite (fun c => ⟨rfl, .inl (eq_encodeXYN f c)⟩) fun _ => ?_
  refine Decodes.ite (fun c => ⟨rfl, .inl (eq_encodeXYN f c)⟩) fun _ => ?_
  refine Decodes.ite (fun c => ⟨rfl, .inl (eq_encodeXYN f c)⟩) fun _ => ?_
  refine Decodes.ite (fun c => ⟨rfl, .inl (eq_encodeXYN f c)⟩) fun _ => ?_
  refine Decodes.ite (fun c => ⟨rfl, .inl (eq_encodeXYN f c)⟩) fun _ => ?_
  refine Decodes.ite (fun c => ⟨rfl, .inl (eq_encodeXYN f c)⟩) fun _ => ?_
  refine Decodes.ite (fun c => ⟨rfl, .inr (.inl ⟨_, _, rfl, eq_encodeXYN f c⟩)⟩) fun _ => ?_
  exact Decodes.ite (fun c => ⟨rfl, .inr (.inr ⟨_, _, rfl, eq_encodeXYN f c⟩)⟩) fun _ => rfl

theorem decodes_decodeF {w : Word} (f : Opcode.family w = 0xF) : Decodes w (decodeF w) := by
  unfold decodeF
  refine Decodes.ite (fun c => ⟨rfl, .inl (eq_encodeXNN_sub f c)⟩) fun _ => ?_
  refine Decodes.ite (fun c => ⟨rfl, .inl (eq_encodeXNN_sub f c)⟩) fun _ => ?_
  refine Decodes.ite (fun c => ⟨rfl, .inl (eq_encodeXNN_sub f c)⟩) fun _ => ?_
  refine Decodes.ite (fun c => ⟨rfl, .inl (eq_encodeXNN_sub f c)⟩) fun _ => ?_
  refine Decodes.ite (fun c => ⟨rfl, .inl (eq_encodeXNN_sub f c)⟩) fun _ => ?_
  refine Decodes.ite (fun c => ⟨rfl, .inl (eq_encodeXNN_sub f c)⟩) fun _ => ?_
  refine Decodes.ite (fun c => ⟨rfl, .inl (eq_encodeXNN_sub f c)⟩) fun _ => ?_
  exact Decodes.ite (fun c => ⟨rfl, .inl (eq_encodeXNN_sub f c)⟩) fun _ => rfl

theorem decodes_decode (w : Word) : Decodes w (decode w) := by
  unfold decode
  refine Decodes.ite (fun _ => Decodes.ite (fun c => ⟨rfl, .inl c⟩) fun _ => Decodes.ite (fun c => ⟨rfl, .inl c⟩) fun _ => rfl) fun n0 => ?_
  refine Decodes.ite (fun f => ⟨rfl, .inl (eq_encodeNNN f)⟩) fun n1 => ?_
  refine Decodes.ite (fun f => ⟨rfl, .inl (eq_encodeNNN f)⟩) fun n2 => ?_
  refine Decodes.ite (fun f => ⟨rfl, .inl (eq_encodeXNN f)⟩) fun n3 => ?_
  refine Decodes.ite (fun f => ⟨rfl, .inl (eq_encodeXNN f)⟩) fun n4 => ?_
  refine Decodes.ite (fun f => Decodes.ite (fun c => ⟨rfl, .inl (eq_encodeXYN f c)⟩) fun _ => rfl) fun n5 => ?_
  refine Decodes.ite (fun f => ⟨rfl, .inl (eq_encodeXNN f)⟩) fun n6 => ?_
  refine Decodes.ite (fun f => ⟨rfl, .inl (eq_encodeXNN f)⟩) fun n7 => ?_
  refine Decodes.ite (fun f => decodes_decode8 f) fun n8 => ?_
  refine Decodes.ite (fun f => Decodes.ite (fun c => ⟨rfl, .inl (eq_encodeXYN f c)⟩) fun _ => rfl) fun n9 => ?_
  refine Decodes.ite (fun f => ⟨rfl, .inl (eq_encodeNNN f)⟩) fun nA => ?_
  refine Decodes.ite (fun f => ⟨rfl, .inl (eq_encodeNNN f)⟩) fun nB => ?_
  refine Decodes.ite (fun f => ⟨rfl, .inl (eq_encodeXNN f)⟩) fun nC => ?_
  refine Decodes.ite (fun f => ⟨?_, .inl ?_⟩) fun nD => ?_
  · simpa [Instr.wf] using (Opcode.n w).isLt
  · simp only [encode, BitVec.ofNat_toNat, BitVec.setWidth_eq]
    exact eq_encodeXYN f rfl
  refine Decodes.ite (fun f => Decodes.ite (fun c => ⟨rfl, .inl (eq_encodeXNN_sub f c)⟩) fun _ =>
    Decodes.ite (fun c => ⟨rfl, .inl (eq_encodeXNN_sub f c)⟩) fun _ => rfl) fun nE => ?_
  refine decodes_decodeF (nibble_eq_F fun k hk => ?_)
  interval_cases k <;> assumption

/-- A word decodes to a well-formed instruction of which it is a word. -/
theorem decode_ok {w : Word} {i : Instr} (h : decode w = .ok i) : i.wf = true ∧ IsWordOf w i := by
  have := decodes_decode w
  rwa [h] at this

/-- A word is rejected under its own name. -/
theorem decode_error {w : Word} {r : Reject} (h : decode w = .error r) : r = .unknownOpcode w := by
  have := decodes_decode w
  rwa [h] at this

end Sys2Proof
end

