-- ==== Sys2Proof/Laws/State.lean ====
section
/-! SUPPORT. What each named update of the state does to each field and to each observer it leaves alone: one lemma a
field, true by rfl. Later proofs cite these and never unfold a record update. -/

namespace Sys2Proof.Machine

/-! ### `State.writeMem` -/

@[simp] theorem State.writeMem_mem (s : State) (a : Nat) (b : Byte) : (s.writeMem a b).mem = s.mem.write s.params.font a b := rfl
@[simp] theorem State.writeMem_v (s : State) (a : Nat) (b : Byte) : (s.writeMem a b).v = s.v := rfl
@[simp] theorem State.writeMem_i (s : State) (a : Nat) (b : Byte) : (s.writeMem a b).i = s.i := rfl
@[simp] theorem State.writeMem_pc (s : State) (a : Nat) (b : Byte) : (s.writeMem a b).pc = s.pc := rfl
@[simp] theorem State.writeMem_stack (s : State) (a : Nat) (b : Byte) : (s.writeMem a b).stack = s.stack := rfl
@[simp] theorem State.writeMem_sp (s : State) (a : Nat) (b : Byte) : (s.writeMem a b).sp = s.sp := rfl
@[simp] theorem State.writeMem_dt (s : State) (a : Nat) (b : Byte) : (s.writeMem a b).dt = s.dt := rfl
@[simp] theorem State.writeMem_st (s : State) (a : Nat) (b : Byte) : (s.writeMem a b).st = s.st := rfl
@[simp] theorem State.writeMem_fb (s : State) (a : Nat) (b : Byte) : (s.writeMem a b).fb = s.fb := rfl
@[simp] theorem State.writeMem_drawFlag (s : State) (a : Nat) (b : Byte) : (s.writeMem a b).drawFlag = s.drawFlag := rfl
@[simp] theorem State.writeMem_soundFlag (s : State) (a : Nat) (b : Byte) : (s.writeMem a b).soundFlag = s.soundFlag := rfl
@[simp] theorem State.writeMem_keys (s : State) (a : Nat) (b : Byte) : (s.writeMem a b).keys = s.keys := rfl
@[simp] theorem State.writeMem_runState (s : State) (a : Nat) (b : Byte) : (s.writeMem a b).runState = s.runState := rfl
@[simp] theorem State.writeMem_faultCause (s : State) (a : Nat) (b : Byte) : (s.writeMem a b).faultCause = s.faultCause := rfl
@[simp] theorem State.writeMem_faultOpcode (s : State) (a : Nat) (b : Byte) : (s.writeMem a b).faultOpcode = s.faultOpcode := rfl
@[simp] theorem State.writeMem_faultPc (s : State) (a : Nat) (b : Byte) : (s.writeMem a b).faultPc = s.faultPc := rfl
@[simp] theorem State.writeMem_unknownFlag (s : State) (a : Nat) (b : Byte) : (s.writeMem a b).unknownFlag = s.unknownFlag := rfl
@[simp] theorem State.writeMem_params (s : State) (a : Nat) (b : Byte) : (s.writeMem a b).params = s.params := rfl
@[simp] theorem State.writeMem_rngDraws (s : State) (a : Nat) (b : Byte) : (s.writeMem a b).rngDraws = s.rngDraws := rfl
@[simp] theorem State.writeMem_events (s : State) (a : Nat) (b : Byte) : (s.writeMem a b).events = s.events := rfl
@[simp] theorem State.writeMem_reg (s : State) (a : Nat) (b : Byte) (k : RegIdx) : (s.writeMem a b).reg k = s.reg k := rfl
@[simp] theorem State.writeMem_stackAt (s : State) (a : Nat) (b : Byte) (k : Fin 16) : (s.writeMem a b).stackAt k = s.stackAt k := rfl
@[simp] theorem State.writeMem_pixel (s : State) (a : Nat) (b : Byte) (p : Pixel) : (s.writeMem a b).pixel p = s.pixel p := rfl
@[simp] theorem State.writeMem_key (s : State) (a : Nat) (b : Byte) (k : Fin 16) : (s.writeMem a b).key k = s.key k := rfl
@[simp] theorem State.writeMem_addr (s : State) (a : Nat) (b : Byte) (n : Nat) : (s.writeMem a b).addr n = s.addr n := rfl
@[simp] theorem State.writeMem_indexBase (s : State) (a : Nat) (b : Byte) : (s.writeMem a b).indexBase = s.indexBase := rfl

/-! ### `State.setReg` -/

@[simp] theorem State.setReg_mem (s : State) (x : RegIdx) (b : Byte) : (s.setReg x b).mem = s.mem := rfl
@[simp] theorem State.setReg_v (s : State) (x : RegIdx) (b : Byte) : (s.setReg x b).v = s.v.set x.val b := rfl
@[simp] theorem State.setReg_i (s : State) (x : RegIdx) (b : Byte) : (s.setReg x b).i = s.i := rfl
@[simp] theorem State.setReg_pc (s : State) (x : RegIdx) (b : Byte) : (s.setReg x b).pc = s.pc := rfl
@[simp] theorem State.setReg_stack (s : State) (x : RegIdx) (b : Byte) : (s.setReg x b).stack = s.stack := rfl
@[simp] theorem State.setReg_sp (s : State) (x : RegIdx) (b : Byte) : (s.setReg x b).sp = s.sp := rfl
@[simp] theorem State.setReg_dt (s : State) (x : RegIdx) (b : Byte) : (s.setReg x b).dt = s.dt := rfl
@[simp] theorem State.setReg_st (s : State) (x : RegIdx) (b : Byte) : (s.setReg x b).st = s.st := rfl
@[simp] theorem State.setReg_fb (s : State) (x : RegIdx) (b : Byte) : (s.setReg x b).fb = s.fb := rfl
@[simp] theorem State.setReg_drawFlag (s : State) (x : RegIdx) (b : Byte) : (s.setReg x b).drawFlag = s.drawFlag := rfl
@[simp] theorem State.setReg_soundFlag (s : State) (x : RegIdx) (b : Byte) : (s.setReg x b).soundFlag = s.soundFlag := rfl
@[simp] theorem State.setReg_keys (s : State) (x : RegIdx) (b : Byte) : (s.setReg x b).keys = s.keys := rfl
@[simp] theorem State.setReg_runState (s : State) (x : RegIdx) (b : Byte) : (s.setReg x b).runState = s.runState := rfl
@[simp] theorem State.setReg_faultCause (s : State) (x : RegIdx) (b : Byte) : (s.setReg x b).faultCause = s.faultCause := rfl
@[simp] theorem State.setReg_faultOpcode (s : State) (x : RegIdx) (b : Byte) : (s.setReg x b).faultOpcode = s.faultOpcode := rfl
@[simp] theorem State.setReg_faultPc (s : State) (x : RegIdx) (b : Byte) : (s.setReg x b).faultPc = s.faultPc := rfl
@[simp] theorem State.setReg_unknownFlag (s : State) (x : RegIdx) (b : Byte) : (s.setReg x b).unknownFlag = s.unknownFlag := rfl
@[simp] theorem State.setReg_params (s : State) (x : RegIdx) (b : Byte) : (s.setReg x b).params = s.params := rfl
@[simp] theorem State.setReg_rngDraws (s : State) (x : RegIdx) (b : Byte) : (s.setReg x b).rngDraws = s.rngDraws := rfl
@[simp] theorem State.setReg_events (s : State) (x : RegIdx) (b : Byte) : (s.setReg x b).events = s.events := rfl
@[simp] theorem State.setReg_readMem (s : State) (x : RegIdx) (b : Byte) (a' : Nat) : (s.setReg x b).readMem a' = s.readMem a' := rfl
@[simp] theorem State.setReg_stackAt (s : State) (x : RegIdx) (b : Byte) (k : Fin 16) : (s.setReg x b).stackAt k = s.stackAt k := rfl
@[simp] theorem State.setReg_pixel (s : State) (x : RegIdx) (b : Byte) (p : Pixel) : (s.setReg x b).pixel p = s.pixel p := rfl
@[simp] theorem State.setReg_key (s : State) (x : RegIdx) (b : Byte) (k : Fin 16) : (s.setReg x b).key k = s.key k := rfl
@[simp] theorem State.setReg_addr (s : State) (x : RegIdx) (b : Byte) (n : Nat) : (s.setReg x b).addr n = s.addr n := rfl
@[simp] theorem State.setReg_indexBase (s : State) (x : RegIdx) (b : Byte) : (s.setReg x b).indexBase = s.indexBase := rfl

/-! ### `State.setPc` -/

@[simp] theorem State.setPc_mem (s : State) (target : Word) : (s.setPc target).mem = s.mem := rfl
@[simp] theorem State.setPc_v (s : State) (target : Word) : (s.setPc target).v = s.v := rfl
@[simp] theorem State.setPc_i (s : State) (target : Word) : (s.setPc target).i = s.i := rfl
@[simp] theorem State.setPc_pc (s : State) (target : Word) : (s.setPc target).pc = target := rfl
@[simp] theorem State.setPc_stack (s : State) (target : Word) : (s.setPc target).stack = s.stack := rfl
@[simp] theorem State.setPc_sp (s : State) (target : Word) : (s.setPc target).sp = s.sp := rfl
@[simp] theorem State.setPc_dt (s : State) (target : Word) : (s.setPc target).dt = s.dt := rfl
@[simp] theorem State.setPc_st (s : State) (target : Word) : (s.setPc target).st = s.st := rfl
@[simp] theorem State.setPc_fb (s : State) (target : Word) : (s.setPc target).fb = s.fb := rfl
@[simp] theorem State.setPc_drawFlag (s : State) (target : Word) : (s.setPc target).drawFlag = s.drawFlag := rfl
@[simp] theorem State.setPc_soundFlag (s : State) (target : Word) : (s.setPc target).soundFlag = s.soundFlag := rfl
@[simp] theorem State.setPc_keys (s : State) (target : Word) : (s.setPc target).keys = s.keys := rfl
@[simp] theorem State.setPc_runState (s : State) (target : Word) : (s.setPc target).runState = s.runState := rfl
@[simp] theorem State.setPc_faultCause (s : State) (target : Word) : (s.setPc target).faultCause = s.faultCause := rfl
@[simp] theorem State.setPc_faultOpcode (s : State) (target : Word) : (s.setPc target).faultOpcode = s.faultOpcode := rfl
@[simp] theorem State.setPc_faultPc (s : State) (target : Word) : (s.setPc target).faultPc = s.faultPc := rfl
@[simp] theorem State.setPc_unknownFlag (s : State) (target : Word) : (s.setPc target).unknownFlag = s.unknownFlag := rfl
@[simp] theorem State.setPc_params (s : State) (target : Word) : (s.setPc target).params = s.params := rfl
@[simp] theorem State.setPc_rngDraws (s : State) (target : Word) : (s.setPc target).rngDraws = s.rngDraws := rfl
@[simp] theorem State.setPc_events (s : State) (target : Word) : (s.setPc target).events = s.events := rfl
@[simp] theorem State.setPc_readMem (s : State) (target : Word) (a' : Nat) : (s.setPc target).readMem a' = s.readMem a' := rfl
@[simp] theorem State.setPc_reg (s : State) (target : Word) (k : RegIdx) : (s.setPc target).reg k = s.reg k := rfl
@[simp] theorem State.setPc_stackAt (s : State) (target : Word) (k : Fin 16) : (s.setPc target).stackAt k = s.stackAt k := rfl
@[simp] theorem State.setPc_pixel (s : State) (target : Word) (p : Pixel) : (s.setPc target).pixel p = s.pixel p := rfl
@[simp] theorem State.setPc_key (s : State) (target : Word) (k : Fin 16) : (s.setPc target).key k = s.key k := rfl
@[simp] theorem State.setPc_addr (s : State) (target : Word) (n : Nat) : (s.setPc target).addr n = s.addr n := rfl
@[simp] theorem State.setPc_indexBase (s : State) (target : Word) : (s.setPc target).indexBase = s.indexBase := rfl

/-! ### `State.advance` -/

@[simp] theorem State.advance_mem (s : State) (d : Word) : (s.advance d).mem = s.mem := rfl
@[simp] theorem State.advance_v (s : State) (d : Word) : (s.advance d).v = s.v := rfl
@[simp] theorem State.advance_i (s : State) (d : Word) : (s.advance d).i = s.i := rfl
@[simp] theorem State.advance_pc (s : State) (d : Word) : (s.advance d).pc = s.pc + d := rfl
@[simp] theorem State.advance_stack (s : State) (d : Word) : (s.advance d).stack = s.stack := rfl
@[simp] theorem State.advance_sp (s : State) (d : Word) : (s.advance d).sp = s.sp := rfl
@[simp] theorem State.advance_dt (s : State) (d : Word) : (s.advance d).dt = s.dt := rfl
@[simp] theorem State.advance_st (s : State) (d : Word) : (s.advance d).st = s.st := rfl
@[simp] theorem State.advance_fb (s : State) (d : Word) : (s.advance d).fb = s.fb := rfl
@[simp] theorem State.advance_drawFlag (s : State) (d : Word) : (s.advance d).drawFlag = s.drawFlag := rfl
@[simp] theorem State.advance_soundFlag (s : State) (d : Word) : (s.advance d).soundFlag = s.soundFlag := rfl
@[simp] theorem State.advance_keys (s : State) (d : Word) : (s.advance d).keys = s.keys := rfl
@[simp] theorem State.advance_runState (s : State) (d : Word) : (s.advance d).runState = s.runState := rfl
@[simp] theorem State.advance_faultCause (s : State) (d : Word) : (s.advance d).faultCause = s.faultCause := rfl
@[simp] theorem State.advance_faultOpcode (s : State) (d : Word) : (s.advance d).faultOpcode = s.faultOpcode := rfl
@[simp] theorem State.advance_faultPc (s : State) (d : Word) : (s.advance d).faultPc = s.faultPc := rfl
@[simp] theorem State.advance_unknownFlag (s : State) (d : Word) : (s.advance d).unknownFlag = s.unknownFlag := rfl
@[simp] theorem State.advance_params (s : State) (d : Word) : (s.advance d).params = s.params := rfl
@[simp] theorem State.advance_rngDraws (s : State) (d : Word) : (s.advance d).rngDraws = s.rngDraws := rfl
@[simp] theorem State.advance_events (s : State) (d : Word) : (s.advance d).events = s.events := rfl
@[simp] theorem State.advance_readMem (s : State) (d : Word) (a' : Nat) : (s.advance d).readMem a' = s.readMem a' := rfl
@[simp] theorem State.advance_reg (s : State) (d : Word) (k : RegIdx) : (s.advance d).reg k = s.reg k := rfl
@[simp] theorem State.advance_stackAt (s : State) (d : Word) (k : Fin 16) : (s.advance d).stackAt k = s.stackAt k := rfl
@[simp] theorem State.advance_pixel (s : State) (d : Word) (p : Pixel) : (s.advance d).pixel p = s.pixel p := rfl
@[simp] theorem State.advance_key (s : State) (d : Word) (k : Fin 16) : (s.advance d).key k = s.key k := rfl
@[simp] theorem State.advance_addr (s : State) (d : Word) (n : Nat) : (s.advance d).addr n = s.addr n := rfl
@[simp] theorem State.advance_indexBase (s : State) (d : Word) : (s.advance d).indexBase = s.indexBase := rfl

/-! ### `State.setI` -/

@[simp] theorem State.setI_mem (s : State) (a : Word) : (s.setI a).mem = s.mem := rfl
@[simp] theorem State.setI_v (s : State) (a : Word) : (s.setI a).v = s.v := rfl
@[simp] theorem State.setI_i (s : State) (a : Word) : (s.setI a).i = a := rfl
@[simp] theorem State.setI_pc (s : State) (a : Word) : (s.setI a).pc = s.pc := rfl
@[simp] theorem State.setI_stack (s : State) (a : Word) : (s.setI a).stack = s.stack := rfl
@[simp] theorem State.setI_sp (s : State) (a : Word) : (s.setI a).sp = s.sp := rfl
@[simp] theorem State.setI_dt (s : State) (a : Word) : (s.setI a).dt = s.dt := rfl
@[simp] theorem State.setI_st (s : State) (a : Word) : (s.setI a).st = s.st := rfl
@[simp] theorem State.setI_fb (s : State) (a : Word) : (s.setI a).fb = s.fb := rfl
@[simp] theorem State.setI_drawFlag (s : State) (a : Word) : (s.setI a).drawFlag = s.drawFlag := rfl
@[simp] theorem State.setI_soundFlag (s : State) (a : Word) : (s.setI a).soundFlag = s.soundFlag := rfl
@[simp] theorem State.setI_keys (s : State) (a : Word) : (s.setI a).keys = s.keys := rfl
@[simp] theorem State.setI_runState (s : State) (a : Word) : (s.setI a).runState = s.runState := rfl
@[simp] theorem State.setI_faultCause (s : State) (a : Word) : (s.setI a).faultCause = s.faultCause := rfl
@[simp] theorem State.setI_faultOpcode (s : State) (a : Word) : (s.setI a).faultOpcode = s.faultOpcode := rfl
@[simp] theorem State.setI_faultPc (s : State) (a : Word) : (s.setI a).faultPc = s.faultPc := rfl
@[simp] theorem State.setI_unknownFlag (s : State) (a : Word) : (s.setI a).unknownFlag = s.unknownFlag := rfl
@[simp] theorem State.setI_params (s : State) (a : Word) : (s.setI a).params = s.params := rfl
@[simp] theorem State.setI_rngDraws (s : State) (a : Word) : (s.setI a).rngDraws = s.rngDraws := rfl
@[simp] theorem State.setI_events (s : State) (a : Word) : (s.setI a).events = s.events := rfl
@[simp] theorem State.setI_readMem (s : State) (a : Word) (a' : Nat) : (s.setI a).readMem a' = s.readMem a' := rfl
@[simp] theorem State.setI_reg (s : State) (a : Word) (k : RegIdx) : (s.setI a).reg k = s.reg k := rfl
@[simp] theorem State.setI_stackAt (s : State) (a : Word) (k : Fin 16) : (s.setI a).stackAt k = s.stackAt k := rfl
@[simp] theorem State.setI_pixel (s : State) (a : Word) (p : Pixel) : (s.setI a).pixel p = s.pixel p := rfl
@[simp] theorem State.setI_key (s : State) (a : Word) (k : Fin 16) : (s.setI a).key k = s.key k := rfl
@[simp] theorem State.setI_addr (s : State) (a : Word) (n : Nat) : (s.setI a).addr n = s.addr n := rfl

/-! ### `State.bumpI` -/

@[simp] theorem State.bumpI_mem (s : State) (x : RegIdx) : (s.bumpI x).mem = s.mem := rfl
@[simp] theorem State.bumpI_v (s : State) (x : RegIdx) : (s.bumpI x).v = s.v := rfl
@[simp] theorem State.bumpI_i (s : State) (x : RegIdx) : (s.bumpI x).i = s.i + BitVec.ofNat 16 (x.val + 1) := rfl
@[simp] theorem State.bumpI_pc (s : State) (x : RegIdx) : (s.bumpI x).pc = s.pc := rfl
@[simp] theorem State.bumpI_stack (s : State) (x : RegIdx) : (s.bumpI x).stack = s.stack := rfl
@[simp] theorem State.bumpI_sp (s : State) (x : RegIdx) : (s.bumpI x).sp = s.sp := rfl
@[simp] theorem State.bumpI_dt (s : State) (x : RegIdx) : (s.bumpI x).dt = s.dt := rfl
@[simp] theorem State.bumpI_st (s : State) (x : RegIdx) : (s.bumpI x).st = s.st := rfl
@[simp] theorem State.bumpI_fb (s : State) (x : RegIdx) : (s.bumpI x).fb = s.fb := rfl
@[simp] theorem State.bumpI_drawFlag (s : State) (x : RegIdx) : (s.bumpI x).drawFlag = s.drawFlag := rfl
@[simp] theorem State.bumpI_soundFlag (s : State) (x : RegIdx) : (s.bumpI x).soundFlag = s.soundFlag := rfl
@[simp] theorem State.bumpI_keys (s : State) (x : RegIdx) : (s.bumpI x).keys = s.keys := rfl
@[simp] theorem State.bumpI_runState (s : State) (x : RegIdx) : (s.bumpI x).runState = s.runState := rfl
@[simp] theorem State.bumpI_faultCause (s : State) (x : RegIdx) : (s.bumpI x).faultCause = s.faultCause := rfl
@[simp] theorem State.bumpI_faultOpcode (s : State) (x : RegIdx) : (s.bumpI x).faultOpcode = s.faultOpcode := rfl
@[simp] theorem State.bumpI_faultPc (s : State) (x : RegIdx) : (s.bumpI x).faultPc = s.faultPc := rfl
@[simp] theorem State.bumpI_unknownFlag (s : State) (x : RegIdx) : (s.bumpI x).unknownFlag = s.unknownFlag := rfl
@[simp] theorem State.bumpI_params (s : State) (x : RegIdx) : (s.bumpI x).params = s.params := rfl
@[simp] theorem State.bumpI_rngDraws (s : State) (x : RegIdx) : (s.bumpI x).rngDraws = s.rngDraws := rfl
@[simp] theorem State.bumpI_events (s : State) (x : RegIdx) : (s.bumpI x).events = s.events := rfl
@[simp] theorem State.bumpI_readMem (s : State) (x : RegIdx) (a' : Nat) : (s.bumpI x).readMem a' = s.readMem a' := rfl
@[simp] theorem State.bumpI_reg (s : State) (x : RegIdx) (k : RegIdx) : (s.bumpI x).reg k = s.reg k := rfl
@[simp] theorem State.bumpI_stackAt (s : State) (x : RegIdx) (k : Fin 16) : (s.bumpI x).stackAt k = s.stackAt k := rfl
@[simp] theorem State.bumpI_pixel (s : State) (x : RegIdx) (p : Pixel) : (s.bumpI x).pixel p = s.pixel p := rfl
@[simp] theorem State.bumpI_key (s : State) (x : RegIdx) (k : Fin 16) : (s.bumpI x).key k = s.key k := rfl
@[simp] theorem State.bumpI_addr (s : State) (x : RegIdx) (n : Nat) : (s.bumpI x).addr n = s.addr n := rfl

/-! ### `State.setDT` -/

@[simp] theorem State.setDT_mem (s : State) (b : Byte) : (s.setDT b).mem = s.mem := rfl
@[simp] theorem State.setDT_v (s : State) (b : Byte) : (s.setDT b).v = s.v := rfl
@[simp] theorem State.setDT_i (s : State) (b : Byte) : (s.setDT b).i = s.i := rfl
@[simp] theorem State.setDT_pc (s : State) (b : Byte) : (s.setDT b).pc = s.pc := rfl
@[simp] theorem State.setDT_stack (s : State) (b : Byte) : (s.setDT b).stack = s.stack := rfl
@[simp] theorem State.setDT_sp (s : State) (b : Byte) : (s.setDT b).sp = s.sp := rfl
@[simp] theorem State.setDT_dt (s : State) (b : Byte) : (s.setDT b).dt = b := rfl
@[simp] theorem State.setDT_st (s : State) (b : Byte) : (s.setDT b).st = s.st := rfl
@[simp] theorem State.setDT_fb (s : State) (b : Byte) : (s.setDT b).fb = s.fb := rfl
@[simp] theorem State.setDT_drawFlag (s : State) (b : Byte) : (s.setDT b).drawFlag = s.drawFlag := rfl
@[simp] theorem State.setDT_soundFlag (s : State) (b : Byte) : (s.setDT b).soundFlag = s.soundFlag := rfl
@[simp] theorem State.setDT_keys (s : State) (b : Byte) : (s.setDT b).keys = s.keys := rfl
@[simp] theorem State.setDT_runState (s : State) (b : Byte) : (s.setDT b).runState = s.runState := rfl
@[simp] theorem State.setDT_faultCause (s : State) (b : Byte) : (s.setDT b).faultCause = s.faultCause := rfl
@[simp] theorem State.setDT_faultOpcode (s : State) (b : Byte) : (s.setDT b).faultOpcode = s.faultOpcode := rfl
@[simp] theorem State.setDT_faultPc (s : State) (b : Byte) : (s.setDT b).faultPc = s.faultPc := rfl
@[simp] theorem State.setDT_unknownFlag (s : State) (b : Byte) : (s.setDT b).unknownFlag = s.unknownFlag := rfl
@[simp] theorem State.setDT_params (s : State) (b : Byte) : (s.setDT b).params = s.params := rfl
@[simp] theorem State.setDT_rngDraws (s : State) (b : Byte) : (s.setDT b).rngDraws = s.rngDraws := rfl
@[simp] theorem State.setDT_events (s : State) (b : Byte) : (s.setDT b).events = s.events := rfl
@[simp] theorem State.setDT_readMem (s : State) (b : Byte) (a' : Nat) : (s.setDT b).readMem a' = s.readMem a' := rfl
@[simp] theorem State.setDT_reg (s : State) (b : Byte) (k : RegIdx) : (s.setDT b).reg k = s.reg k := rfl
@[simp] theorem State.setDT_stackAt (s : State) (b : Byte) (k : Fin 16) : (s.setDT b).stackAt k = s.stackAt k := rfl
@[simp] theorem State.setDT_pixel (s : State) (b : Byte) (p : Pixel) : (s.setDT b).pixel p = s.pixel p := rfl
@[simp] theorem State.setDT_key (s : State) (b : Byte) (k : Fin 16) : (s.setDT b).key k = s.key k := rfl
@[simp] theorem State.setDT_addr (s : State) (b : Byte) (n : Nat) : (s.setDT b).addr n = s.addr n := rfl
@[simp] theorem State.setDT_indexBase (s : State) (b : Byte) : (s.setDT b).indexBase = s.indexBase := rfl

/-! ### `State.setST` -/

@[simp] theorem State.setST_mem (s : State) (b : Byte) : (s.setST b).mem = s.mem := rfl
@[simp] theorem State.setST_v (s : State) (b : Byte) : (s.setST b).v = s.v := rfl
@[simp] theorem State.setST_i (s : State) (b : Byte) : (s.setST b).i = s.i := rfl
@[simp] theorem State.setST_pc (s : State) (b : Byte) : (s.setST b).pc = s.pc := rfl
@[simp] theorem State.setST_stack (s : State) (b : Byte) : (s.setST b).stack = s.stack := rfl
@[simp] theorem State.setST_sp (s : State) (b : Byte) : (s.setST b).sp = s.sp := rfl
@[simp] theorem State.setST_dt (s : State) (b : Byte) : (s.setST b).dt = s.dt := rfl
@[simp] theorem State.setST_st (s : State) (b : Byte) : (s.setST b).st = b := rfl
@[simp] theorem State.setST_fb (s : State) (b : Byte) : (s.setST b).fb = s.fb := rfl
@[simp] theorem State.setST_drawFlag (s : State) (b : Byte) : (s.setST b).drawFlag = s.drawFlag := rfl
@[simp] theorem State.setST_soundFlag (s : State) (b : Byte) : (s.setST b).soundFlag = s.soundFlag := rfl
@[simp] theorem State.setST_keys (s : State) (b : Byte) : (s.setST b).keys = s.keys := rfl
@[simp] theorem State.setST_runState (s : State) (b : Byte) : (s.setST b).runState = s.runState := rfl
@[simp] theorem State.setST_faultCause (s : State) (b : Byte) : (s.setST b).faultCause = s.faultCause := rfl
@[simp] theorem State.setST_faultOpcode (s : State) (b : Byte) : (s.setST b).faultOpcode = s.faultOpcode := rfl
@[simp] theorem State.setST_faultPc (s : State) (b : Byte) : (s.setST b).faultPc = s.faultPc := rfl
@[simp] theorem State.setST_unknownFlag (s : State) (b : Byte) : (s.setST b).unknownFlag = s.unknownFlag := rfl
@[simp] theorem State.setST_params (s : State) (b : Byte) : (s.setST b).params = s.params := rfl
@[simp] theorem State.setST_rngDraws (s : State) (b : Byte) : (s.setST b).rngDraws = s.rngDraws := rfl
@[simp] theorem State.setST_events (s : State) (b : Byte) : (s.setST b).events = s.events := rfl
@[simp] theorem State.setST_readMem (s : State) (b : Byte) (a' : Nat) : (s.setST b).readMem a' = s.readMem a' := rfl
@[simp] theorem State.setST_reg (s : State) (b : Byte) (k : RegIdx) : (s.setST b).reg k = s.reg k := rfl
@[simp] theorem State.setST_stackAt (s : State) (b : Byte) (k : Fin 16) : (s.setST b).stackAt k = s.stackAt k := rfl
@[simp] theorem State.setST_pixel (s : State) (b : Byte) (p : Pixel) : (s.setST b).pixel p = s.pixel p := rfl
@[simp] theorem State.setST_key (s : State) (b : Byte) (k : Fin 16) : (s.setST b).key k = s.key k := rfl
@[simp] theorem State.setST_addr (s : State) (b : Byte) (n : Nat) : (s.setST b).addr n = s.addr n := rfl
@[simp] theorem State.setST_indexBase (s : State) (b : Byte) : (s.setST b).indexBase = s.indexBase := rfl

/-! ### `State.setFb` -/

@[simp] theorem State.setFb_mem (s : State) (g : Framebuffer) : (s.setFb g).mem = s.mem := rfl
@[simp] theorem State.setFb_v (s : State) (g : Framebuffer) : (s.setFb g).v = s.v := rfl
@[simp] theorem State.setFb_i (s : State) (g : Framebuffer) : (s.setFb g).i = s.i := rfl
@[simp] theorem State.setFb_pc (s : State) (g : Framebuffer) : (s.setFb g).pc = s.pc := rfl
@[simp] theorem State.setFb_stack (s : State) (g : Framebuffer) : (s.setFb g).stack = s.stack := rfl
@[simp] theorem State.setFb_sp (s : State) (g : Framebuffer) : (s.setFb g).sp = s.sp := rfl
@[simp] theorem State.setFb_dt (s : State) (g : Framebuffer) : (s.setFb g).dt = s.dt := rfl
@[simp] theorem State.setFb_st (s : State) (g : Framebuffer) : (s.setFb g).st = s.st := rfl
@[simp] theorem State.setFb_fb (s : State) (g : Framebuffer) : (s.setFb g).fb = g := rfl
@[simp] theorem State.setFb_drawFlag (s : State) (g : Framebuffer) : (s.setFb g).drawFlag = true := rfl
@[simp] theorem State.setFb_soundFlag (s : State) (g : Framebuffer) : (s.setFb g).soundFlag = s.soundFlag := rfl
@[simp] theorem State.setFb_keys (s : State) (g : Framebuffer) : (s.setFb g).keys = s.keys := rfl
@[simp] theorem State.setFb_runState (s : State) (g : Framebuffer) : (s.setFb g).runState = s.runState := rfl
@[simp] theorem State.setFb_faultCause (s : State) (g : Framebuffer) : (s.setFb g).faultCause = s.faultCause := rfl
@[simp] theorem State.setFb_faultOpcode (s : State) (g : Framebuffer) : (s.setFb g).faultOpcode = s.faultOpcode := rfl
@[simp] theorem State.setFb_faultPc (s : State) (g : Framebuffer) : (s.setFb g).faultPc = s.faultPc := rfl
@[simp] theorem State.setFb_unknownFlag (s : State) (g : Framebuffer) : (s.setFb g).unknownFlag = s.unknownFlag := rfl
@[simp] theorem State.setFb_params (s : State) (g : Framebuffer) : (s.setFb g).params = s.params := rfl
@[simp] theorem State.setFb_rngDraws (s : State) (g : Framebuffer) : (s.setFb g).rngDraws = s.rngDraws := rfl
@[simp] theorem State.setFb_events (s : State) (g : Framebuffer) : (s.setFb g).events = s.events := rfl
@[simp] theorem State.setFb_readMem (s : State) (g : Framebuffer) (a' : Nat) : (s.setFb g).readMem a' = s.readMem a' := rfl
@[simp] theorem State.setFb_reg (s : State) (g : Framebuffer) (k : RegIdx) : (s.setFb g).reg k = s.reg k := rfl
@[simp] theorem State.setFb_stackAt (s : State) (g : Framebuffer) (k : Fin 16) : (s.setFb g).stackAt k = s.stackAt k := rfl
@[simp] theorem State.setFb_key (s : State) (g : Framebuffer) (k : Fin 16) : (s.setFb g).key k = s.key k := rfl
@[simp] theorem State.setFb_addr (s : State) (g : Framebuffer) (n : Nat) : (s.setFb g).addr n = s.addr n := rfl
@[simp] theorem State.setFb_indexBase (s : State) (g : Framebuffer) : (s.setFb g).indexBase = s.indexBase := rfl

/-! ### `State.raiseFault` -/

@[simp] theorem State.raiseFault_mem (s : State) (c : FaultCause) (opc : Word) : (s.raiseFault c opc).mem = s.mem := rfl
@[simp] theorem State.raiseFault_v (s : State) (c : FaultCause) (opc : Word) : (s.raiseFault c opc).v = s.v := rfl
@[simp] theorem State.raiseFault_i (s : State) (c : FaultCause) (opc : Word) : (s.raiseFault c opc).i = s.i := rfl
@[simp] theorem State.raiseFault_pc (s : State) (c : FaultCause) (opc : Word) : (s.raiseFault c opc).pc = s.pc := rfl
@[simp] theorem State.raiseFault_stack (s : State) (c : FaultCause) (opc : Word) : (s.raiseFault c opc).stack = s.stack := rfl
@[simp] theorem State.raiseFault_sp (s : State) (c : FaultCause) (opc : Word) : (s.raiseFault c opc).sp = s.sp := rfl
@[simp] theorem State.raiseFault_dt (s : State) (c : FaultCause) (opc : Word) : (s.raiseFault c opc).dt = s.dt := rfl
@[simp] theorem State.raiseFault_st (s : State) (c : FaultCause) (opc : Word) : (s.raiseFault c opc).st = s.st := rfl
@[simp] theorem State.raiseFault_fb (s : State) (c : FaultCause) (opc : Word) : (s.raiseFault c opc).fb = s.fb := rfl
@[simp] theorem State.raiseFault_drawFlag (s : State) (c : FaultCause) (opc : Word) : (s.raiseFault c opc).drawFlag = s.drawFlag := rfl
@[simp] theorem State.raiseFault_soundFlag (s : State) (c : FaultCause) (opc : Word) : (s.raiseFault c opc).soundFlag = s.soundFlag := rfl
@[simp] theorem State.raiseFault_keys (s : State) (c : FaultCause) (opc : Word) : (s.raiseFault c opc).keys = s.keys := rfl
@[simp] theorem State.raiseFault_runState (s : State) (c : FaultCause) (opc : Word) : (s.raiseFault c opc).runState = .halted := rfl
@[simp] theorem State.raiseFault_faultCause (s : State) (c : FaultCause) (opc : Word) : (s.raiseFault c opc).faultCause = c := rfl
@[simp] theorem State.raiseFault_faultOpcode (s : State) (c : FaultCause) (opc : Word) : (s.raiseFault c opc).faultOpcode = opc := rfl
@[simp] theorem State.raiseFault_faultPc (s : State) (c : FaultCause) (opc : Word) : (s.raiseFault c opc).faultPc = s.pc := rfl
@[simp] theorem State.raiseFault_unknownFlag (s : State) (c : FaultCause) (opc : Word) : (s.raiseFault c opc).unknownFlag = s.unknownFlag := rfl
@[simp] theorem State.raiseFault_params (s : State) (c : FaultCause) (opc : Word) : (s.raiseFault c opc).params = s.params := rfl
@[simp] theorem State.raiseFault_rngDraws (s : State) (c : FaultCause) (opc : Word) : (s.raiseFault c opc).rngDraws = s.rngDraws := rfl
@[simp] theorem State.raiseFault_events (s : State) (c : FaultCause) (opc : Word) : (s.raiseFault c opc).events = s.events := rfl
@[simp] theorem State.raiseFault_readMem (s : State) (c : FaultCause) (opc : Word) (a' : Nat) : (s.raiseFault c opc).readMem a' = s.readMem a' := rfl
@[simp] theorem State.raiseFault_reg (s : State) (c : FaultCause) (opc : Word) (k : RegIdx) : (s.raiseFault c opc).reg k = s.reg k := rfl
@[simp] theorem State.raiseFault_stackAt (s : State) (c : FaultCause) (opc : Word) (k : Fin 16) : (s.raiseFault c opc).stackAt k = s.stackAt k := rfl
@[simp] theorem State.raiseFault_pixel (s : State) (c : FaultCause) (opc : Word) (p : Pixel) : (s.raiseFault c opc).pixel p = s.pixel p := rfl
@[simp] theorem State.raiseFault_key (s : State) (c : FaultCause) (opc : Word) (k : Fin 16) : (s.raiseFault c opc).key k = s.key k := rfl
@[simp] theorem State.raiseFault_addr (s : State) (c : FaultCause) (opc : Word) (n : Nat) : (s.raiseFault c opc).addr n = s.addr n := rfl
@[simp] theorem State.raiseFault_indexBase (s : State) (c : FaultCause) (opc : Word) : (s.raiseFault c opc).indexBase = s.indexBase := rfl

/-! ### `State.reportUnknown` -/

@[simp] theorem State.reportUnknown_mem (s : State) (opc : Word) : (s.reportUnknown opc).mem = s.mem := rfl
@[simp] theorem State.reportUnknown_v (s : State) (opc : Word) : (s.reportUnknown opc).v = s.v := rfl
@[simp] theorem State.reportUnknown_i (s : State) (opc : Word) : (s.reportUnknown opc).i = s.i := rfl
@[simp] theorem State.reportUnknown_pc (s : State) (opc : Word) : (s.reportUnknown opc).pc = s.pc := rfl
@[simp] theorem State.reportUnknown_stack (s : State) (opc : Word) : (s.reportUnknown opc).stack = s.stack := rfl
@[simp] theorem State.reportUnknown_sp (s : State) (opc : Word) : (s.reportUnknown opc).sp = s.sp := rfl
@[simp] theorem State.reportUnknown_dt (s : State) (opc : Word) : (s.reportUnknown opc).dt = s.dt := rfl
@[simp] theorem State.reportUnknown_st (s : State) (opc : Word) : (s.reportUnknown opc).st = s.st := rfl
@[simp] theorem State.reportUnknown_fb (s : State) (opc : Word) : (s.reportUnknown opc).fb = s.fb := rfl
@[simp] theorem State.reportUnknown_drawFlag (s : State) (opc : Word) : (s.reportUnknown opc).drawFlag = s.drawFlag := rfl
@[simp] theorem State.reportUnknown_soundFlag (s : State) (opc : Word) : (s.reportUnknown opc).soundFlag = s.soundFlag := rfl
@[simp] theorem State.reportUnknown_keys (s : State) (opc : Word) : (s.reportUnknown opc).keys = s.keys := rfl
@[simp] theorem State.reportUnknown_runState (s : State) (opc : Word) : (s.reportUnknown opc).runState = s.runState := rfl
@[simp] theorem State.reportUnknown_faultCause (s : State) (opc : Word) : (s.reportUnknown opc).faultCause = .unknownOpcode := rfl
@[simp] theorem State.reportUnknown_faultOpcode (s : State) (opc : Word) : (s.reportUnknown opc).faultOpcode = opc := rfl
@[simp] theorem State.reportUnknown_faultPc (s : State) (opc : Word) : (s.reportUnknown opc).faultPc = s.pc := rfl
@[simp] theorem State.reportUnknown_unknownFlag (s : State) (opc : Word) : (s.reportUnknown opc).unknownFlag = true := rfl
@[simp] theorem State.reportUnknown_params (s : State) (opc : Word) : (s.reportUnknown opc).params = s.params := rfl
@[simp] theorem State.reportUnknown_rngDraws (s : State) (opc : Word) : (s.reportUnknown opc).rngDraws = s.rngDraws := rfl
@[simp] theorem State.reportUnknown_events (s : State) (opc : Word) : (s.reportUnknown opc).events = s.events ++ [.unknownOpcode opc (reportedFamily opc)] := rfl
@[simp] theorem State.reportUnknown_readMem (s : State) (opc : Word) (a' : Nat) : (s.reportUnknown opc).readMem a' = s.readMem a' := rfl
@[simp] theorem State.reportUnknown_reg (s : State) (opc : Word) (k : RegIdx) : (s.reportUnknown opc).reg k = s.reg k := rfl
@[simp] theorem State.reportUnknown_stackAt (s : State) (opc : Word) (k : Fin 16) : (s.reportUnknown opc).stackAt k = s.stackAt k := rfl
@[simp] theorem State.reportUnknown_pixel (s : State) (opc : Word) (p : Pixel) : (s.reportUnknown opc).pixel p = s.pixel p := rfl
@[simp] theorem State.reportUnknown_key (s : State) (opc : Word) (k : Fin 16) : (s.reportUnknown opc).key k = s.key k := rfl
@[simp] theorem State.reportUnknown_addr (s : State) (opc : Word) (n : Nat) : (s.reportUnknown opc).addr n = s.addr n := rfl
@[simp] theorem State.reportUnknown_indexBase (s : State) (opc : Word) : (s.reportUnknown opc).indexBase = s.indexBase := rfl

/-! ### `State.drawRandom` -/

@[simp] theorem State.drawRandom_mem (s : State) : s.drawRandom.2.mem = s.mem := rfl
@[simp] theorem State.drawRandom_v (s : State) : s.drawRandom.2.v = s.v := rfl
@[simp] theorem State.drawRandom_i (s : State) : s.drawRandom.2.i = s.i := rfl
@[simp] theorem State.drawRandom_pc (s : State) : s.drawRandom.2.pc = s.pc := rfl
@[simp] theorem State.drawRandom_stack (s : State) : s.drawRandom.2.stack = s.stack := rfl
@[simp] theorem State.drawRandom_sp (s : State) : s.drawRandom.2.sp = s.sp := rfl
@[simp] theorem State.drawRandom_dt (s : State) : s.drawRandom.2.dt = s.dt := rfl
@[simp] theorem State.drawRandom_st (s : State) : s.drawRandom.2.st = s.st := rfl
@[simp] theorem State.drawRandom_fb (s : State) : s.drawRandom.2.fb = s.fb := rfl
@[simp] theorem State.drawRandom_drawFlag (s : State) : s.drawRandom.2.drawFlag = s.drawFlag := rfl
@[simp] theorem State.drawRandom_soundFlag (s : State) : s.drawRandom.2.soundFlag = s.soundFlag := rfl
@[simp] theorem State.drawRandom_keys (s : State) : s.drawRandom.2.keys = s.keys := rfl
@[simp] theorem State.drawRandom_runState (s : State) : s.drawRandom.2.runState = s.runState := rfl
@[simp] theorem State.drawRandom_faultCause (s : State) : s.drawRandom.2.faultCause = s.faultCause := rfl
@[simp] theorem State.drawRandom_faultOpcode (s : State) : s.drawRandom.2.faultOpcode = s.faultOpcode := rfl
@[simp] theorem State.drawRandom_faultPc (s : State) : s.drawRandom.2.faultPc = s.faultPc := rfl
@[simp] theorem State.drawRandom_unknownFlag (s : State) : s.drawRandom.2.unknownFlag = s.unknownFlag := rfl
@[simp] theorem State.drawRandom_params (s : State) : s.drawRandom.2.params = s.params := rfl
@[simp] theorem State.drawRandom_rngDraws (s : State) : s.drawRandom.2.rngDraws = s.rngDraws + 1 := rfl
@[simp] theorem State.drawRandom_events (s : State) : s.drawRandom.2.events = s.events := rfl
@[simp] theorem State.drawRandom_readMem (s : State) (a' : Nat) : s.drawRandom.2.readMem a' = s.readMem a' := rfl
@[simp] theorem State.drawRandom_reg (s : State) (k : RegIdx) : s.drawRandom.2.reg k = s.reg k := rfl
@[simp] theorem State.drawRandom_stackAt (s : State) (k : Fin 16) : s.drawRandom.2.stackAt k = s.stackAt k := rfl
@[simp] theorem State.drawRandom_pixel (s : State) (p : Pixel) : s.drawRandom.2.pixel p = s.pixel p := rfl
@[simp] theorem State.drawRandom_key (s : State) (k : Fin 16) : s.drawRandom.2.key k = s.key k := rfl
@[simp] theorem State.drawRandom_addr (s : State) (n : Nat) : s.drawRandom.2.addr n = s.addr n := rfl
@[simp] theorem State.drawRandom_indexBase (s : State) : s.drawRandom.2.indexBase = s.indexBase := rfl

end Sys2Proof.Machine
end

