-- ==== Sys2Proof/Laws/Memory.lean ====
section
/-! SUPPORT. The laws of memory (20_memory.md R49, R55): read after write, the canonical form kept by every operation, and
what the address function and the block operations do. -/

namespace Sys2Proof.Machine

/-! ### One byte -/

theorem Memory.find_remove (m : Memory) (a a' : Nat) :
    (m.remove a).find a' = if a' = a then none else m.find a' := by
  induction m with
  | nil => simp [Memory.remove, Memory.find]
  | cons c m ih => by_cases h : c.1 = a <;> grind [Memory.remove, Memory.find]

theorem Memory.find_insert (m : Memory) (a a' : Nat) (b : Byte) :
    (m.insert a b).find a' = if a' = a then some b else m.find a' := by
  induction m with
  | nil => grind [Memory.insert, Memory.find]
  | cons c m ih => grind [Memory.insert, Memory.find]

/-- A read gives the byte last written there, else what it gave before (R55). -/
theorem Memory.read_write (font : Font) (m : Memory) (a a' : Nat) (b : Byte) :
    (m.write font a b).read font a' = if a' = a then b else m.read font a' := by
  unfold Memory.write Memory.read
  by_cases hb : b = Memory.unlisted font a
  · by_cases ha : a' = a <;> simp [hb, ha, Memory.find_remove]
  · by_cases ha : a' = a <;> simp [hb, ha, Memory.find_insert]

@[simp] theorem State.readMem_writeMem (s : State) (a a' : Nat) (b : Byte) :
    (s.writeMem a b).readMem a' = if a' = a then b else s.readMem a' :=
  Memory.read_write s.params.font s.mem a a' b

/-! ### The canonical form -/

theorem Memory.canonicalFrom_cons (font : Font) (lo : Nat) (c : Host.Cell) (m : Memory) :
    Memory.canonicalFrom font lo (c :: m) = true ↔
      lo ≤ c.1 ∧ c.1 < 4096 ∧ c.2 ≠ Memory.unlisted font c.1 ∧ Memory.canonicalFrom font (c.1 + 1) m = true := by
  simp [Memory.canonicalFrom, and_assoc]

theorem Memory.canonicalFrom_mono (font : Font) {lo lo' : Nat} (h : lo ≤ lo') {m : Memory}
    (hm : Memory.canonicalFrom font lo' m = true) : Memory.canonicalFrom font lo m = true := by
  cases m with
  | nil => rfl
  | cons c m =>
    rw [Memory.canonicalFrom_cons] at hm ⊢
    exact ⟨h.trans hm.1, hm.2⟩

theorem Memory.canonicalFrom_remove (font : Font) (a : Nat) (m : Memory) (lo : Nat)
    (hm : Memory.canonicalFrom font lo m = true) : Memory.canonicalFrom font lo (m.remove a) = true := by
  induction m generalizing lo with
  | nil => rfl
  | cons c m ih =>
    rw [Memory.canonicalFrom_cons] at hm
    obtain ⟨h1, h2, h3, h4⟩ := hm
    by_cases h : c.1 = a
    · rw [Memory.remove, if_pos h]
      exact Memory.canonicalFrom_mono font (by omega) (ih _ h4)
    · rw [Memory.remove, if_neg h, Memory.canonicalFrom_cons]
      exact ⟨h1, h2, h3, ih _ h4⟩

theorem Memory.canonicalFrom_insert (font : Font) (a : Nat) (b : Byte) (ha : a < 4096)
    (hb : b ≠ Memory.unlisted font a) (m : Memory) (lo : Nat) (hlo : lo ≤ a)
    (hm : Memory.canonicalFrom font lo m = true) : Memory.canonicalFrom font lo (m.insert a b) = true := by
  induction m generalizing lo with
  | nil => exact (Memory.canonicalFrom_cons ..).2 ⟨hlo, ha, hb, rfl⟩
  | cons c m ih =>
    rw [Memory.canonicalFrom_cons] at hm
    obtain ⟨h1, h2, h3, h4⟩ := hm
    unfold Memory.insert
    split
    · exact (Memory.canonicalFrom_cons ..).2 ⟨hlo, ha, hb, (Memory.canonicalFrom_cons ..).2 ⟨by simpa, h2, h3, h4⟩⟩
    · split
      · next h => exact (Memory.canonicalFrom_cons ..).2 ⟨hlo, ha, hb, h ▸ h4⟩
      · exact (Memory.canonicalFrom_cons ..).2 ⟨h1, h2, h3, ih _ (by omega) h4⟩

/-- A write inside the address space keeps the canonical form. -/
theorem Memory.wf_write (font : Font) (m : Memory) (a : Nat) (b : Byte) (ha : a < 4096) (hm : m.wf font = true) :
    (m.write font a b).wf font = true := by
  unfold Memory.write Memory.wf at *
  split
  · exact Memory.canonicalFrom_remove font a m 0 hm
  · next hb => exact Memory.canonicalFrom_insert font a b ha hb m 0 (Nat.zero_le _) hm

theorem State.memCanonical_writeMem {s : State} (hs : s.MemCanonical) {a : Nat} (ha : a < 4096) (b : Byte) :
    (s.writeMem a b).MemCanonical :=
  Memory.wf_write _ _ _ _ ha hs

/-- Memories in canonical form that read alike below 4096 are the same list. -/
theorem Memory.find_of_canonicalFrom (font : Font) (m : Memory) (lo a : Nat)
    (hm : Memory.canonicalFrom font lo m = true) (ha : a < lo) : m.find a = none := by
  induction m generalizing lo with
  | nil => rfl
  | cons c m ih =>
    rw [Memory.canonicalFrom_cons] at hm
    obtain ⟨h1, -, -, h4⟩ := hm
    have hc : c.1 ≠ a := by omega
    rw [Memory.find, if_neg hc]
    exact ih _ h4 (by omega)

/-! ### The address function -/

/-- What `Addr` can answer (R49): an address below 4096, congruent to the candidate and equal to it below 4096. -/
theorem State.addr_spec {s : State} {a b : Nat} (h : s.addr a = some b) :
    b = a % 4096 ∧ (s.params.oob = .fault → a < 4096) := by
  cases ho : s.params.oob <;> grind [State.addr]

theorem State.addr_none {s : State} {a : Nat} : s.addr a = none ↔ s.params.oob = .fault ∧ 4096 ≤ a := by
  cases ho : s.params.oob
  · simp [State.addr, ho]
  · simp [State.addr, ho]
    omega

theorem State.addr_of_lt {s : State} {a : Nat} (h : a < 4096) : s.addr a = some a := by
  cases ho : s.params.oob <;> simp [State.addr, ho] <;> omega

theorem State.addr_of_wrap {s : State} (h : s.params.oob = .wrap) (a : Nat) : s.addr a = some (a % 4096) := by
  simp [State.addr, h]

/-- Addresses of a run of candidates: each reduced mod 4096; refused exactly when `OOB_POLICY = Fault` and the run passes
0xFFF. -/
theorem State.addrs_spec (s : State) (a n : Nat) :
    s.addrs a n = if s.params.oob = .fault ∧ 0 < n ∧ 4096 < a + n then none
      else some ((List.range' a n).map (· % 4096)) := by
  induction n generalizing a with
  | zero => simp [State.addrs]
  | succ n ih =>
    unfold State.addrs
    rw [ih]
    cases hp : s.params.oob with
    | wrap => simp [State.addr, hp, List.range'_succ]
    | fault =>
      by_cases h1 : a > 0xFFF
      · simp [State.addr, hp, h1]; omega
      · by_cases h2 : 0 < n ∧ 4096 < a + 1 + n
        · have h3 : 4096 < a + (n + 1) := by omega
          simp [State.addr, hp, h1, h2, h3]
        · have h3 : ¬ 4096 < a + (n + 1) := by omega
          simp [State.addr, hp, h1, h2, h3, List.range'_succ]
          omega

theorem State.indexBase_eq (s : State) : s.indexBase = s.i.toNat % 4096 := by
  rw [State.indexBase, BitVec.toNat_and]
  exact Nat.and_two_pow_sub_one_eq_mod s.i.toNat 12

theorem State.indexBase_lt (s : State) : s.indexBase < 4096 := by
  rw [State.indexBase_eq]
  exact Nat.mod_lt _ (by decide)

theorem State.indexAddrs_spec (s : State) (n : Nat) :
    s.indexAddrs n = if s.params.oob = .fault ∧ 0 < n ∧ 4096 < s.indexBase + n then none
      else some ((List.range' s.indexBase n).map (· % 4096)) :=
  s.addrs_spec s.indexBase n

theorem State.indexAddrs_lt {s : State} {n : Nat} {as : List Nat} (h : s.indexAddrs n = some as) :
    ∀ a ∈ as, a < 4096 := by
  rw [State.indexAddrs_spec] at h
  split at h
  · cases h
  · cases h
    intro a ha
    obtain ⟨b, -, rfl⟩ := List.mem_map.1 ha
    exact Nat.mod_lt _ (by decide)

theorem State.indexAddrs_length {s : State} {n : Nat} {as : List Nat} (h : s.indexAddrs n = some as) :
    as.length = n := by
  rw [State.indexAddrs_spec] at h
  split at h
  · cases h
  · cases h; simp

/-- The addresses of one access are distinct: at most 4096 of them in a space of 4096 (R56). -/
theorem State.indexAddrs_nodup {s : State} {n : Nat} (hn : n ≤ 4096) {as : List Nat} (h : s.indexAddrs n = some as) :
    as.Nodup := by
  rw [State.indexAddrs_spec] at h
  split at h
  · cases h
  · cases h
    rw [List.nodup_map_iff_inj_on List.nodup_range']
    intro a ha b hb hab
    rw [List.mem_range'_1] at ha hb
    omega

/-! ### Block reads and writes -/

theorem State.readAll_eq_map (s : State) (as : List Nat) : s.readAll as = as.map s.readMem := by
  induction as with
  | nil => rfl
  | cons a as ih => simp [State.readAll, ih]

/-- A block write changes memory alone. -/
theorem State.writeAll_eq (s : State) (as : List Nat) (bs : List Byte) :
    s.writeAll as bs = { s with mem := (s.writeAll as bs).mem } := by
  induction as generalizing s bs with
  | nil => rfl
  | cons a as ih =>
    cases bs with
    | nil => rfl
    | cons b bs => rw [State.writeAll, ih (s.writeMem a b) bs]; rfl

theorem State.memCanonical_writeAll {s : State} (hs : s.MemCanonical) (as : List Nat) (bs : List Byte)
    (h : ∀ a ∈ as, a < 4096) : (s.writeAll as bs).MemCanonical := by
  induction as generalizing s bs with
  | nil => exact hs
  | cons a as ih =>
    cases bs with
    | nil => exact hs
    | cons b bs =>
      exact ih (s.memCanonical_writeMem hs (h a (by simp)) b) bs (fun a' ha' => h a' (by simp [ha']))

theorem State.readMem_writeAll_of_notMem (s : State) (as : List Nat) (bs : List Byte) (a : Nat) (h : a ∉ as) :
    (s.writeAll as bs).readMem a = s.readMem a := by
  induction as generalizing s bs with
  | nil => rfl
  | cons a' as ih =>
    cases bs with
    | nil => rfl
    | cons b bs =>
      rw [List.mem_cons, not_or] at h
      rw [State.writeAll, ih _ _ h.2, State.readMem_writeMem, if_neg h.1]

/-- A block write to distinct addresses leaves byte `k` at address `k`. -/
theorem State.readMem_writeAll (s : State) (as : List Nat) (bs : List Byte) (hn : as.Nodup) (k : Nat)
    (ha : k < as.length) (hb : k < bs.length) : (s.writeAll as bs).readMem as[k] = bs[k] := by
  induction as generalizing s bs k with
  | nil => simp at ha
  | cons a as ih =>
    cases bs with
    | nil => simp at hb
    | cons b bs =>
      rw [List.nodup_cons] at hn
      cases k with
      | zero => simp [State.writeAll, State.readMem_writeAll_of_notMem _ _ _ _ hn.1]
      | succ k => exact ih _ _ hn.2 k (by simpa using ha) (by simpa using hb)

end Sys2Proof.Machine
end

