-- ==== Sys2Proof/Laws/Ops.lean ====
section
/-! SUPPORT. What each shared operation over registers, flags, timers, fetch, faults and keys can do, said once. -/

namespace Sys2Proof.Machine

/-! ### Registers -/

@[simp] theorem State.reg_setReg (s : State) (x k : RegIdx) (b : Byte) :
    (s.setReg x b).reg k = if k = x then b else s.reg k := by
  simp only [State.reg, State.setReg, Vector.getElem_set, Fin.ext_iff]
  grind

/-- Loading registers changes registers alone. -/
theorem State.setRegsFrom_eq (s : State) (k : Nat) (bs : List Byte) :
    s.setRegsFrom k bs = { s with v := (s.setRegsFrom k bs).v } := by
  induction bs generalizing s k with
  | nil => rfl
  | cons b bs ih =>
    unfold State.setRegsFrom
    split
    · rw [ih]; rfl
    · rfl

/-- Loading `bs` from register `k` on: register `j` takes byte `j - k` if there is one, else it stays. -/
theorem State.reg_setRegsFrom (s : State) (k : Nat) (bs : List Byte) (j : RegIdx) :
    (s.setRegsFrom k bs).reg j = if k ≤ j.val then bs.getD (j.val - k) (s.reg j) else s.reg j := by
  induction bs generalizing s k with
  | nil => simp [State.setRegsFrom]
  | cons b bs ih =>
    unfold State.setRegsFrom
    split
    · next h =>
      rw [ih, State.reg_setReg]
      simp only [Fin.ext_iff]
      rcases Nat.lt_trichotomy k j.val with hk | hk | hk
      · have h1 : j.val - k = (j.val - (k + 1)) + 1 := by omega
        have h2 : j.val ≠ k := by omega
        simp [h1, h2, show k + 1 ≤ j.val by omega, hk.le]
      · simp [hk]
      · simp [show ¬ k + 1 ≤ j.val by omega, show ¬ k ≤ j.val by omega, show j.val ≠ k by omega]
    · next h => simp [show ¬ k ≤ j.val by omega]

theorem State.regsFrom_length (s : State) (k n : Nat) (h : k + n ≤ 16) : (s.regsFrom k n).length = n := by
  induction n generalizing k with
  | zero => rfl
  | succ n ih => simp [State.regsFrom, show k < 16 by omega, ih (k + 1) (by omega)]

/-- The list `V[k], V[k+1], …` holds register `k + j` at place `j`. -/
theorem State.regsFrom_getElem (s : State) (k n j : Nat) (h : k + n ≤ 16) (hj : j < (s.regsFrom k n).length) :
    (s.regsFrom k n)[j] = s.reg ⟨k + j, by rw [s.regsFrom_length k n h] at hj; omega⟩ := by
  induction n generalizing k j with
  | zero => simp [State.regsFrom] at hj
  | succ n ih =>
    have hk : k < 16 := by omega
    have hr : s.regsFrom k (n + 1) = s.reg ⟨k, hk⟩ :: s.regsFrom (k + 1) n := by simp [State.regsFrom, hk]
    cases j with
    | zero => simp [hr]
    | succ j =>
      simp only [hr, List.getElem_cons_succ]
      rw [ih (k + 1) j (by omega)]
      congr 2
      omega

/-! ### Flags (R103) -/

/-- A flag-and-result instruction changes general registers alone. -/
theorem State.writeFlagResult_eq (flag res : Byte → Byte → Byte) (x y : RegIdx) (s : State) :
    s.writeFlagResult flag res x y = { s with v := (s.writeFlagResult flag res x y).v } := by
  unfold State.writeFlagResult
  cases s.params.vfOrder <;> rfl

/-- Where neither operand is VF the order of the two writes does not matter (R103). -/
theorem State.reg_writeFlagResult (flag res : Byte → Byte → Byte) (x y : RegIdx) (s : State) (hx : x ≠ vf)
    (hy : y ≠ vf) (k : RegIdx) :
    (s.writeFlagResult flag res x y).reg k =
      if k = x then res (s.reg x) (s.reg y) else if k = vf then flag (s.reg x) (s.reg y) else s.reg k := by
  unfold State.writeFlagResult
  cases s.params.vfOrder <;> grind [State.reg_setReg]

/-- Whatever the order, only Vx and VF are written. -/
theorem State.reg_writeFlagResult_of_ne (flag res : Byte → Byte → Byte) (x y : RegIdx) (s : State) (k : RegIdx)
    (hx : k ≠ x) (hf : k ≠ vf) : (s.writeFlagResult flag res x y).reg k = s.reg k := by
  unfold State.writeFlagResult
  cases s.params.vfOrder <;> simp [hx, hf]

/-! ### The flag and result functions as numbers (R110 to R113) -/

theorem toNat_flagByte (b : Bool) : (flagByte b).toNat = if b then 1 else 0 := by
  cases b <;> rfl

theorem toNat_carryFlag (a b : Byte) : (carryFlag a b).toNat = if a.toNat + b.toNat > 255 then 1 else 0 := by
  simp [carryFlag, toNat_flagByte]

theorem toNat_noBorrowFlag (a b : Byte) : (noBorrowFlag a b).toNat = if a.toNat ≥ b.toNat then 1 else 0 := by
  simp [noBorrowFlag, toNat_flagByte]

theorem toNat_shrFlag (a b : Byte) : (shrFlag a b).toNat = a.toNat % 2 :=
  Nat.and_two_pow_sub_one_eq_mod a.toNat 1

theorem toNat_shrResult (a b : Byte) : (shrResult a b).toNat = a.toNat / 2 := by
  simp [shrResult, Nat.shiftRight_eq_div_pow]

theorem toNat_shlFlag (a b : Byte) : (shlFlag a b).toNat = a.toNat / 128 := by
  simp [shlFlag, Nat.shiftRight_eq_div_pow]

theorem toNat_shlResult (a b : Byte) : (shlResult a b).toNat = a.toNat * 2 % 256 := by
  simp [shlResult, Nat.shiftLeft_eq]

/-! ### pc -/

theorem State.skipIf_eq (s : State) (c : Bool) : s.skipIf c = s.setPc (s.pc + if c then 4 else 2) := by
  cases c <;> rfl

/-! ### Keys (R138) -/

theorem State.keyIdx_none {s : State} {v : Byte} : s.keyIdx v = none ↔ s.params.oob = .fault ∧ 15 < v.toNat := by
  have h : (v > 0x0F) ↔ 15 < v.toNat := BitVec.lt_def
  cases ho : s.params.oob
  · simp [State.keyIdx, ho]
  · simpa [State.keyIdx, ho] using h

theorem State.keyIdx_some {s : State} {v : Byte} {k : Fin 16} (h : s.keyIdx v = some k) : k.val = v.toNat % 16 := by
  have hv : ((v.extractLsb' 0 4).toFin : Fin 16).val = v.toNat % 16 := by
    have : ((v.extractLsb' 0 4).toFin : Fin 16).val = (v.extractLsb' 0 4).toNat := rfl
    rw [this, BitVec.extractLsb'_toNat]; rfl
  cases ho : s.params.oob <;> grind [State.keyIdx]

/-! ### Fetch (R83) -/

theorem State.fetch_none {s : State} : s.fetch = none ↔ s.params.oob = .fault ∧ 4096 ≤ s.pc.toNat + 1 := by
  unfold State.fetch
  split
  · next h0 h1 =>
    obtain ⟨-, h0⟩ := State.addr_spec h0
    obtain ⟨-, h1⟩ := State.addr_spec h1
    simp only [false_iff, not_and, reduceCtorEq]
    intro h
    have := h1 h
    omega
  · next h =>
    simp only [true_iff]
    cases h0 : s.addr s.pc.toNat with
    | none => obtain ⟨a, b⟩ := State.addr_none.1 h0; exact ⟨a, by omega⟩
    | some a0 =>
      cases h1 : s.addr (s.pc.toNat + 1) with
      | none => exact State.addr_none.1 h1
      | some a1 => exact absurd h1 (h a0 a1 h0)

/-- A fetch that raises nothing reads the two bytes at pc and pc + 1, each reduced mod 4096, high byte first. -/
theorem State.fetch_some {s : State} {opc : Word} (h : s.fetch = some opc) :
    opc = wordOfBytes (s.readMem (s.pc.toNat % 4096)) (s.readMem ((s.pc.toNat + 1) % 4096)) := by
  unfold State.fetch at h
  split at h
  · next h0 h1 =>
    obtain ⟨rfl, -⟩ := State.addr_spec h0
    obtain ⟨rfl, -⟩ := State.addr_spec h1
    exact (Option.some.inj h).symm
  · cases h

/-! ### Unknown opcodes (R145) -/

theorem State.handleUnknown_cases (s : State) (opc : Word) :
    (s.params.unknownOpcode = .skip ∧ s.handleUnknown opc = (s.reportUnknown opc).advance 2) ∨
    (s.params.unknownOpcode = .stall ∧ s.handleUnknown opc = s.reportUnknown opc) ∨
    (s.params.unknownOpcode = .halt ∧ s.handleUnknown opc = s.raiseFault .unknownOpcode opc) := by
  unfold State.handleUnknown
  cases s.params.unknownOpcode <;> simp

/-! ### The tick (R132) -/

/-- The tick writes DT, ST, sound_flag and the events, and nothing else. -/
theorem State.tick_eq (s : State) :
    s.tick = { s with
      dt := if s.dt = 0 then 0 else s.dt - 1
      st := if s.st = 0 then 0 else s.st - 1
      soundFlag := if s.st = 1 then true else s.soundFlag
      events := if s.st = 1 then s.events ++ [.soundPulse] else s.events } := by
  obtain ⟨⟩ := s
  simp only [State.tick, State.tickST, State.tickDT, State.setDT, State.setST]
  grind

/-- The tick as numbers: both timers down by one and clamped at 0, the pulse exactly when ST was 1 (R132, R133). -/
theorem State.tick_spec (s : State) :
    s.tick.dt.toNat = s.dt.toNat - 1 ∧ s.tick.st.toNat = s.st.toNat - 1 ∧
    s.tick.soundFlag = (s.soundFlag || s.st == 1) ∧
    s.tick.events = s.events ++ if s.st = 1 then [.soundPulse] else [] := by
  have down : ∀ b : Byte, (if b = 0 then 0 else b - 1).toNat = b.toNat - 1 := by decide
  rw [State.tick_eq]
  refine ⟨down s.dt, down s.st, ?_, ?_⟩
  · show (if s.st = 1 then true else s.soundFlag) = _
    split
    · next h => rw [h]; simp
    · next h => rw [beq_eq_false_iff_ne.2 h]; simp
  · show (if s.st = 1 then s.events ++ [.soundPulse] else s.events) = _
    split <;> simp

theorem State.completeStep_of_running {s : State} (h : s.runState = .running) : s.completeStep = s.tick := by
  rw [State.completeStep, h]

theorem State.completeStep_of_halted {s : State} (h : s.runState = .halted) : s.completeStep = s := by
  rw [State.completeStep, h]

/-! ### The step (R89) -/

theorem step_of_halted {s : State} (h : s.runState = .halted) : step s = .next s := by
  simp [step, State.stepOnce, h]

theorem step_of_unloaded {s : State} (h : s.runState = .unloaded) : step s = .next s := by
  simp [step, State.stepOnce, h]

theorem step_of_fetch_none {s : State} (hr : s.runState = .running) (h : s.fetch = none) :
    step s = .next (s.raiseFault .rangeFault 0x0000) := by
  simp [step, State.stepOnce, State.cycle, hr, h]

theorem step_of_fetch_some {s : State} (hr : s.runState = .running) {opc : Word} (h : s.fetch = some opc) :
    step s = finish (s.executeDecoded opc (decode opc)) := by
  simp [step, State.stepOnce, State.cycle, hr, h]

/-! ### Load (R160) -/

/-- Copying an image changes memory alone. -/
theorem State.copyImage_eq (s : State) (a : Nat) (bs : List Byte) :
    s.copyImage a bs = { s with mem := (s.copyImage a bs).mem } := by
  induction bs generalizing s a with
  | nil => rfl
  | cons b bs ih => rw [State.copyImage, ih]; rfl

/-- After the copy, address `a + j` holds image byte `j`, and every other address what it held. -/
theorem State.readMem_copyImage (s : State) (a : Nat) (bs : List Byte) (a' : Nat) :
    (s.copyImage a bs).readMem a' = if a ≤ a' then bs.getD (a' - a) (s.readMem a') else s.readMem a' := by
  induction bs generalizing s a with
  | nil => simp [State.copyImage]
  | cons b bs ih =>
    rw [State.copyImage, ih, State.readMem_writeMem]
    rcases Nat.lt_trichotomy a a' with h | h | h
    · have h1 : a' - a = (a' - (a + 1)) + 1 := by omega
      simp [h1, show a + 1 ≤ a' by omega, h.le, show a' ≠ a by omega]
    · simp [h]
    · simp [show ¬ a + 1 ≤ a' by omega, show ¬ a ≤ a' by omega, show a' ≠ a by omega]

theorem State.memCanonical_copyImage {s : State} (hs : s.MemCanonical) (a : Nat) (bs : List Byte)
    (h : a + bs.length ≤ 4096) : (s.copyImage a bs).MemCanonical := by
  induction bs generalizing s a with
  | nil => exact hs
  | cons b bs ih =>
    rw [List.length_cons] at h
    exact ih (s.memCanonical_writeMem hs (by omega) b) (a + 1) (by omega)

/-- Memory with nothing listed reads as its reset content (R52). -/
theorem State.readMem_of_nil {s : State} (h : s.mem = []) (a : Nat) :
    s.readMem a = Memory.unlisted s.params.font a := by
  simp [State.readMem, Memory.read, h, Memory.find]

/-- A load of an image that fits is the reset followed by the copy (R159, R160). -/
theorem transact_load_ok (s : State) (image : List Byte) (h : image.length ≤ 3584) :
    transact (.load image) s = .next (s.resetKeeping.copyImage 0x200 image, .ok) := by
  have h' : ¬ image.length > maxImage := by
    unfold maxImage
    omega
  simp [transact, State.loadPort, State.load, h']

end Sys2Proof.Machine
end

