-- ==== Sys2Proof/Laws/Display.lean ====
section
/-! SUPPORT. The laws of the framebuffer and of the sprite rasterizer (44_display.md R126 to R131). -/

namespace Sys2Proof.Machine

theorem Framebuffer.get_clear (p : Pixel) : Framebuffer.clear.get p = false := by
  simp [Framebuffer.clear, Framebuffer.get]

/-- Toggling one pixel flips it and leaves every other. -/
theorem Framebuffer.get_toggle (fb : Framebuffer) (p q : Pixel) :
    (fb.toggle p).get q = if q = p then !fb.get p else fb.get q := by
  obtain ⟨px, py⟩ := p
  obtain ⟨qx, qy⟩ := q
  simp only [Framebuffer.toggle, Framebuffer.get, Vector.getElem_set, Prod.mk.injEq, Fin.ext_iff]
  by_cases hy : py.val = qy.val
  · by_cases hx : px.val = qx.val
    · simp [hy, hx]
    · simp [hy, hx, eq_comm]
  · simp [hy, eq_comm]

/-- Framebuffers that read alike are the same. -/
theorem Framebuffer.ext {a b : Framebuffer} (h : ∀ p, a.get p = b.get p) : a = b := by
  apply Vector.ext
  intro py hy
  apply Vector.ext
  intro px hx
  exact h (⟨px, hx⟩, ⟨py, hy⟩)

/-- Drawing distinct pixels flips exactly those. -/
theorem Framebuffer.get_blit (fb : Framebuffer) (hit : Bool) (ps : List Pixel) (h : ps.Nodup) (p : Pixel) :
    (fb.blit hit ps).1.get p = if p ∈ ps then !fb.get p else fb.get p := by
  induction ps generalizing fb hit with
  | nil => rfl
  | cons q ps ih =>
    rw [List.nodup_cons] at h
    rw [Framebuffer.blit, ih _ _ h.2, Framebuffer.get_toggle]
    by_cases hp : p = q
    · subst hp
      simp [h.1]
    · simp [hp]

/-- Drawing distinct pixels hits exactly when one of them was set (R128). -/
theorem Framebuffer.hit_blit (fb : Framebuffer) (hit : Bool) (ps : List Pixel) (h : ps.Nodup) :
    (fb.blit hit ps).2 = true ↔ hit = true ∨ ∃ p ∈ ps, fb.get p = true := by
  induction ps generalizing fb hit with
  | nil => simp [Framebuffer.blit]
  | cons q ps ih =>
    rw [List.nodup_cons] at h
    rw [Framebuffer.blit, ih _ _ h.2]
    have hq : ∀ p ∈ ps, (fb.toggle q).get p = fb.get p := by
      intro p hp
      rw [Framebuffer.get_toggle, if_neg]
      rintro rfl
      exact h.1 hp
    constructor
    · rintro (h1 | ⟨p, hp, h2⟩)
      · simp only [Bool.or_eq_true] at h1
        rcases h1 with h1 | h1
        · exact .inl h1
        · exact .inr ⟨q, by simp, h1⟩
      · exact .inr ⟨p, by simp [hp], by rw [← hq p hp]; exact h2⟩
    · rintro (h1 | ⟨p, hp, h2⟩)
      · simp [h1]
      · rcases List.mem_cons.1 hp with rfl | hp
        · simp [h2]
        · exact .inr ⟨p, hp, by rw [hq p hp]; exact h2⟩

/-! ### The pixels of a sprite -/

theorem mem_rowPixelsFrom (x0 y0 r : Nat) (row : Byte) (b fuel : Nat) (p : Pixel) :
    p ∈ rowPixelsFrom x0 y0 r row b fuel ↔
      ∃ k, b ≤ k ∧ k < b + fuel ∧ row.getLsbD (7 - k) = true ∧ p = spritePixel x0 y0 r k := by
  induction fuel generalizing b with
  | zero => simp [rowPixelsFrom]; omega
  | succ fuel ih =>
    unfold rowPixelsFrom
    split
    · next h =>
      rw [List.mem_cons, ih]
      constructor
      · rintro (rfl | ⟨k, h1, h2, h3, rfl⟩)
        · exact ⟨b, le_refl _, by omega, h, rfl⟩
        · exact ⟨k, by omega, by omega, h3, rfl⟩
      · rintro ⟨k, h1, h2, h3, rfl⟩
        rcases Nat.eq_or_lt_of_le h1 with rfl | h1
        · exact .inl rfl
        · exact .inr ⟨k, h1, by omega, h3, rfl⟩
    · next h =>
      rw [ih]
      constructor
      · rintro ⟨k, h1, h2, h3, rfl⟩
        exact ⟨k, by omega, by omega, h3, rfl⟩
      · rintro ⟨k, h1, h2, h3, rfl⟩
        rcases Nat.eq_or_lt_of_le h1 with rfl | h1
        · exact absurd h3 h
        · exact ⟨k, h1, by omega, h3, rfl⟩

theorem mem_spritePixelsFrom (x0 y0 r : Nat) (rows : List Byte) (p : Pixel) :
    p ∈ spritePixelsFrom x0 y0 r rows ↔
      ∃ j b, ∃ h : j < rows.length, b < 8 ∧ rows[j].getLsbD (7 - b) = true ∧ p = spritePixel x0 y0 (r + j) b := by
  induction rows generalizing r with
  | nil => simp [spritePixelsFrom]
  | cons row rows ih =>
    rw [spritePixelsFrom, List.mem_append, mem_rowPixelsFrom, ih]
    constructor
    · rintro (⟨k, -, h2, h3, rfl⟩ | ⟨j, b, hj, hb, hs, rfl⟩)
      · exact ⟨0, k, by simp, by omega, by simpa using h3, rfl⟩
      · exact ⟨j + 1, b, by simpa using hj, hb, by simpa using hs, by rw [Nat.add_assoc, Nat.add_comm 1]⟩
    · rintro ⟨j, b, hj, hb, hs, rfl⟩
      cases j with
      | zero => exact .inl ⟨b, Nat.zero_le _, by omega, by simpa using hs, rfl⟩
      | succ j =>
        exact .inr ⟨j, b, by simpa using hj, hb, by simpa using hs, by rw [Nat.add_assoc, Nat.add_comm 1]⟩

/-- The pixels a sprite draws: row `j`, bit position `b` set, at the wrapped coordinate (R126, R127). -/
theorem mem_spritePixels (x0 y0 : Nat) (rows : List Byte) (p : Pixel) :
    p ∈ spritePixels x0 y0 rows ↔
      ∃ j b, ∃ h : j < rows.length, b < 8 ∧ rows[j].getLsbD (7 - b) = true ∧ p = spritePixel x0 y0 j b := by
  simp [spritePixels, mem_spritePixelsFrom]

theorem spritePixel_inj {x0 y0 r r' b b' : Nat} (hb : b < 64) (hb' : b' < 64) (hr : r < 32 + r') (hr' : r' < 32 + r)
    (h : spritePixel x0 y0 r b = spritePixel x0 y0 r' b') : r = r' ∧ b = b' := by
  simp only [spritePixel, Prod.mk.injEq, Fin.ext_iff, Fin.val_ofNat] at h
  omega

theorem nodup_rowPixelsFrom (x0 y0 r : Nat) (row : Byte) (b fuel : Nat) (h : b + fuel ≤ 64) :
    (rowPixelsFrom x0 y0 r row b fuel).Nodup := by
  induction fuel generalizing b with
  | zero => exact List.nodup_nil
  | succ fuel ih =>
    unfold rowPixelsFrom
    split
    · rw [List.nodup_cons]
      refine ⟨?_, ih (b + 1) (by omega)⟩
      rw [mem_rowPixelsFrom]
      rintro ⟨k, h1, h2, -, h4⟩
      have := (spritePixel_inj (by omega) (by omega) (by omega) (by omega) h4).2
      omega
    · exact ih (b + 1) (by omega)

/-- The pixels of a sprite of at most 32 rows are distinct (R128). -/
theorem nodup_spritePixels (x0 y0 : Nat) (rows : List Byte) (h : rows.length ≤ 32) :
    (spritePixels x0 y0 rows).Nodup := by
  suffices H : ∀ r, r + rows.length ≤ r + 32 → (spritePixelsFrom x0 y0 r rows).Nodup from H 0 (by omega)
  induction rows with
  | nil => intro r _; exact List.nodup_nil
  | cons row rows ih =>
    intro r hr
    rw [List.length_cons] at hr h
    rw [spritePixelsFrom, List.nodup_append]
    refine ⟨nodup_rowPixelsFrom x0 y0 r row 0 8 (by omega), ih (by omega) (r + 1) (by omega), ?_⟩
    intro p hp q hq hpq
    subst hpq
    rw [mem_rowPixelsFrom] at hp
    rw [mem_spritePixelsFrom] at hq
    obtain ⟨k, -, hk, -, rfl⟩ := hp
    obtain ⟨j, b, hj, hb, -, h4⟩ := hq
    have := (spritePixel_inj (by omega) (by omega) (by omega) (by omega) h4).1
    omega

/-- Drawing a sprite changes the framebuffer, draw_flag and VF alone. -/
theorem State.drawSprite_eq (s : State) (x y : RegIdx) (rows : List Byte) :
    s.drawSprite x y rows =
      { s with
        fb := (s.fb.blit false (spritePixels (s.originX x) (s.originY y) rows)).1
        drawFlag := true
        v := s.v.set 15 (flagByte (s.fb.blit false (spritePixels (s.originX x) (s.originY y) rows)).2) } :=
  rfl

/-- The pixels the rasterizer draws are the ones `State.SpriteLit` names. -/
theorem mem_spritePixels_iff (s : State) (x y : RegIdx) (as : List Nat) (p : Pixel) :
    p ∈ spritePixels (s.originX x) (s.originY y) (s.readAll as) ↔ s.SpriteLit x y as p := by
  rw [mem_spritePixels, s.readAll_eq_map]
  unfold State.SpriteLit State.originX State.originY
  constructor
  · rintro ⟨j, b, hj, hb, hs, rfl⟩
    rw [List.length_map] at hj
    exact ⟨j, b, as[j], by simp [hj], hb, by simpa using hs, by simp [spritePixel], by simp [spritePixel]⟩
  · rintro ⟨r, b, a, ha, hb, hs, h1, h2⟩
    obtain ⟨hr, rfl⟩ := List.getElem?_eq_some_iff.1 ha
    exact ⟨r, b, by simpa using hr, hb, by simpa using hs,
      Prod.ext (Fin.ext (by simp [spritePixel, h1])) (Fin.ext (by simp [spritePixel, h2]))⟩

end Sys2Proof.Machine
end

