-- ==== Sys2Proof/Laws/Exec.lean ====
section
/-! SUPPORT. The two paths of each meaning that can raise a fault, what raising one leaves (60_exceptions.md R142, R143),
and the frames of the shared operations behind the meanings (40_step.md R91). -/

namespace Sys2Proof.Machine

/-! ### Raising a fault -/

theorem State.sameMachine_raiseFault (s : State) (c : FaultCause) (opc : Word) : SameMachine s (s.raiseFault c opc) := by
  constructor <;> intros <;> rfl

theorem State.faultRecorded_raiseFault (s : State) (c : FaultCause) (opc : Word) :
    FaultRecorded c opc s (s.raiseFault c opc) := by
  constructor <;> rfl

/-! ### Call and return -/

/-- The state after a CALL that does not overflow (R95). -/
def State.called (s : State) (nnn : Addr12) (h : s.sp.val < 16) : State :=
  { s with stack := s.stack.set s.sp.val s.pc h, sp := ⟨s.sp.val + 1, by omega⟩, pc := zextAddr nnn }

/-- The state after a RET that does not underflow (R93). -/
def State.returned (s : State) (h : 0 < s.sp.val) : State :=
  { s with sp := ⟨s.sp.val - 1, by omega⟩, pc := s.stackAt ⟨s.sp.val - 1, by omega⟩ + 2 }

theorem execCall_of_lt {s : State} (nnn : Addr12) (h : s.sp.val < 16) : execCall nnn s = .next (s.called nnn h) :=
  dif_neg (by omega)

theorem execCall_of_full {s : State} (nnn : Addr12) (h : s.sp.val = 16) :
    execCall nnn s = .next (s.raiseFault .stackOverflow (encode (.call nnn))) :=
  dif_pos h

theorem execRet_of_pos {s : State} (h : 0 < s.sp.val) : execRet s = .next (s.returned h) :=
  dif_neg (by omega)

theorem execRet_of_zero {s : State} (h : s.sp.val = 0) :
    execRet s = .next (s.raiseFault .stackUnderflow (encode .ret)) :=
  dif_pos h

theorem State.stackAt_called (s : State) (nnn : Addr12) (h : s.sp.val < 16) (k : Fin 16) :
    (s.called nnn h).stackAt k = if k.val = s.sp.val then s.pc else s.stackAt k := by
  simp only [State.called, State.stackAt, Vector.getElem_set]
  grind

/-! ### Memory and display -/

theorem execBcd_of_some {s : State} {x : RegIdx} {as : List Nat} (h : s.indexAddrs 3 = some as) :
    execBcd x s = .next ((s.writeAll as (bcdDigits (s.reg x))).advance 2) := by
  rw [execBcd, h]

theorem execBcd_of_none {s : State} {x : RegIdx} (h : s.indexAddrs 3 = none) :
    execBcd x s = .next (s.raiseFault .rangeFault (encode (.bcd x))) := by
  rw [execBcd, h]

theorem execStore_of_some {s : State} {x : RegIdx} {as : List Nat} (h : s.indexAddrs (x.val + 1) = some as) :
    execStore x s = .next (((s.writeAll as (s.regsFrom 0 (x.val + 1))).bumpI x).advance 2) := by
  rw [execStore, h]

theorem execStore_of_none {s : State} {x : RegIdx} (h : s.indexAddrs (x.val + 1) = none) :
    execStore x s = .next (s.raiseFault .rangeFault (encode (.store x))) := by
  rw [execStore, h]

theorem execLoad_of_some {s : State} {x : RegIdx} {as : List Nat} (h : s.indexAddrs (x.val + 1) = some as) :
    execLoad x s = .next (((s.setRegsFrom 0 (s.readAll as)).bumpI x).advance 2) := by
  rw [execLoad, h]

theorem execLoad_of_none {s : State} {x : RegIdx} (h : s.indexAddrs (x.val + 1) = none) :
    execLoad x s = .next (s.raiseFault .rangeFault (encode (.load x))) := by
  rw [execLoad, h]

theorem execDrw_of_some {s : State} {x y : RegIdx} {n : Nat} {as : List Nat} (h : s.indexAddrs n = some as) :
    execDrw x y n s = .next ((s.drawSprite x y (s.readAll as)).advance 2) := by
  rw [execDrw, h]

theorem execDrw_of_none {s : State} {x y : RegIdx} {n : Nat} (h : s.indexAddrs n = none) :
    execDrw x y n s = .next (s.raiseFault .rangeFault (encode (.drw x y n))) := by
  rw [execDrw, h]

/-! ### Key skips -/

theorem execSkp_of_some {s : State} {x : RegIdx} {k : Fin 16} (h : s.keyIdx (s.reg x) = some k) :
    execSkp x s = .next (s.skipIf (s.key k)) := by
  rw [execSkp, h]

theorem execSkp_of_none {s : State} {x : RegIdx} (h : s.keyIdx (s.reg x) = none) :
    execSkp x s = .next (s.raiseFault .rangeFault (encode (.skp x))) := by
  rw [execSkp, h]

theorem execSknp_of_some {s : State} {x : RegIdx} {k : Fin 16} (h : s.keyIdx (s.reg x) = some k) :
    execSknp x s = .next (s.skipIf (!s.key k)) := by
  rw [execSknp, h]

theorem execSknp_of_none {s : State} {x : RegIdx} (h : s.keyIdx (s.reg x) = none) :
    execSknp x s = .next (s.raiseFault .rangeFault (encode (.sknp x))) := by
  rw [execSknp, h]

/-! ### Frames -/

/-- A skip writes nothing but pc. -/
theorem State.frame_skipIf (s : State) (c : Bool) : Frame {} s (s.skipIf c) := by
  rw [State.skipIf_eq]
  constructor <;> intros <;> rfl

/-- A register write writes only its register beside pc. -/
theorem State.frame_setReg (s : State) (x : RegIdx) (b : Byte) (d : Word) :
    Frame { regs := (· = x) } s ((s.setReg x b).advance d) := by
  constructor <;> simp +contextual

/-- A flag-and-result instruction writes only Vx and VF beside pc. -/
theorem State.frame_writeFlagResult (s : State) (flag res : Byte → Byte → Byte) (x y : RegIdx) (d : Word) :
    Frame { regs := fun k => k = x ∨ k = vf } s ((s.writeFlagResult flag res x y).advance d) := by
  have h := s.reg_writeFlagResult_of_ne flag res x y
  rw [State.writeFlagResult_eq] at *
  constructor <;> first | (intros; rfl) | skip
  intro k hk
  rw [not_or] at hk
  exact h k hk.1 hk.2

/-- A block write writes only the bytes at its addresses beside pc. -/
theorem State.frame_writeAll (s : State) (as : List Nat) (bs : List Byte) (d : Word) :
    Frame { mem := (· ∈ as) } s ((s.writeAll as bs).advance d) := by
  have h := s.readMem_writeAll_of_notMem as bs
  rw [s.writeAll_eq] at *
  constructor <;> first | (intros; rfl) | exact h

/-! ### Everything an instruction can do, said once -/

/-- What instruction `i` may write at `s` when it raises no fault (R20, R91). -/
def Instr.writes (s : State) : Instr → Writes
  | .cls => { pixels := fun _ => True, drawFlag := True }
  | .ret => { sp := True }
  | .jp _ => {}
  | .call _ => { sp := True, stack := fun k => k.val = s.sp.val }
  | .seImm _ _ => {}
  | .sneImm _ _ => {}
  | .seReg _ _ => {}
  | .ldImm x _ => { regs := (· = x) }
  | .addImm x _ => { regs := (· = x) }
  | .ldReg x _ => { regs := (· = x) }
  | .orReg x _ => { regs := (· = x) }
  | .andReg x _ => { regs := (· = x) }
  | .xorReg x _ => { regs := (· = x) }
  | .addReg x _ => { regs := fun k => k = x ∨ k = vf }
  | .subReg x _ => { regs := fun k => k = x ∨ k = vf }
  | .shr x => { regs := fun k => k = x ∨ k = vf }
  | .shl x => { regs := fun k => k = x ∨ k = vf }
  | .sneReg _ _ => {}
  | .ldI _ => { i := True }
  | .jpV0 _ => {}
  | .rnd x _ => { regs := (· = x), rngDraws := True }
  | .drw _ _ _ => { regs := (· = vf), pixels := fun _ => True, drawFlag := True }
  | .skp _ => {}
  | .sknp _ => {}
  | .ldFromDT x => { regs := (· = x) }
  | .ldDT _ => { dt := True }
  | .ldST _ => { st := True }
  | .addI _ => { i := True }
  | .ldF _ => { i := True }
  | .bcd _ => { mem := fun a => ∃ as, s.indexAddrs 3 = some as ∧ a ∈ as }
  | .store x => { mem := fun a => ∃ as, s.indexAddrs (x.val + 1) = some as ∧ a ∈ as, i := True }
  | .load x => { regs := (· ≤ x), i := True }

/-- When instruction `i` raises the fault `c` at `s` (R146 to R148). -/
def Instr.faultsWith (s : State) (i : Instr) : FaultCause → Prop
  | .noCause => False
  | .unknownOpcode => False
  | .stackOverflow => s.sp.val = 16 ∧ ∃ nnn, i = .call nnn
  | .stackUnderflow => s.sp.val = 0 ∧ i = .ret
  | .rangeFault => s.params.oob = .fault ∧ s.OutOfRange i

/-- `exec` of `i` at `s` completes: it writes only what the instruction may write, keeps memory canonical, and sets
draw_flag or leaves it. -/
def Completes (i : Instr) (s : State) : Prop :=
  ∃ t, exec i s = .next t ∧ Frame (Instr.writes s i) s t ∧ (s.MemCanonical → t.MemCanonical) ∧
    (s.drawFlag = true → t.drawFlag = true)

/-- `exec` of `i` at `s` raises a fault. -/
def RaisesFault (i : Instr) (s : State) : Prop :=
  ∃ c, Instr.faultsWith s i c ∧ exec i s = .next (s.raiseFault c (encode i))

theorem State.indexAddrs_none {s : State} {n : Nat} (h : s.indexAddrs n = none) : s.params.oob = .fault := by
  rw [State.indexAddrs_spec] at h
  split at h
  · next h' => exact h'.1
  · cases h

/-- A register-only instruction: nothing but pc and the named parts is written. -/
theorem Completes.of_frame {i : Instr} {s t : State} (h : exec i s = .next t) (hf : Frame (Instr.writes s i) s t)
    (hm : t.mem = s.mem) (hd : s.drawFlag = true → t.drawFlag = true) : Completes i s := by
  refine ⟨t, h, hf, ?_, hd⟩
  unfold State.MemCanonical
  rw [hm, hf.params]
  exact id

/-- Every instruction at every state completes within its frame or raises a fault it has the condition for. -/
theorem exec_spec (i : Instr) (s : State) : Completes i s ∨ RaisesFault i s := by
  cases i with
  | cls =>
    refine .inl (.of_frame rfl ?_ rfl fun _ => rfl)
    constructor <;> simp [Instr.writes]
  | ret =>
    rcases Nat.eq_zero_or_pos s.sp.val with h | h
    · exact .inr ⟨.stackUnderflow, ⟨h, rfl⟩, execRet_of_zero h⟩
    · refine .inl (.of_frame (execRet_of_pos h) ?_ rfl id)
      constructor <;> first | (intros; rfl) | simp [Instr.writes]
  | jp nnn => exact .inl (.of_frame rfl (by constructor <;> intros <;> rfl) rfl id)
  | call nnn =>
    rcases Nat.lt_or_ge s.sp.val 16 with h | h
    · refine .inl (.of_frame (execCall_of_lt nnn h) ?_ rfl id)
      constructor <;> first | (intros; rfl) | skip
      · simp [Instr.writes]
      · exact fun k hk => (s.stackAt_called nnn h k).trans (if_neg hk)
    · have h16 : s.sp.val = 16 := by omega
      exact .inr ⟨.stackOverflow, ⟨h16, nnn, rfl⟩, execCall_of_full nnn h16⟩
  | seImm x nn => exact .inl (.of_frame rfl (s.frame_skipIf _) (by rw [State.skipIf_eq]; rfl) (by rw [State.skipIf_eq]; exact id))
  | sneImm x nn => exact .inl (.of_frame rfl (s.frame_skipIf _) (by rw [State.skipIf_eq]; rfl) (by rw [State.skipIf_eq]; exact id))
  | seReg x y => exact .inl (.of_frame rfl (s.frame_skipIf _) (by rw [State.skipIf_eq]; rfl) (by rw [State.skipIf_eq]; exact id))
  | sneReg x y => exact .inl (.of_frame rfl (s.frame_skipIf _) (by rw [State.skipIf_eq]; rfl) (by rw [State.skipIf_eq]; exact id))
  | ldImm x nn => exact .inl (.of_frame rfl (s.frame_setReg x _ 2) rfl id)
  | addImm x nn => exact .inl (.of_frame rfl (s.frame_setReg x _ 2) rfl id)
  | ldReg x y => exact .inl (.of_frame rfl (s.frame_setReg x _ 2) rfl id)
  | orReg x y => exact .inl (.of_frame rfl (s.frame_setReg x _ 2) rfl id)
  | andReg x y => exact .inl (.of_frame rfl (s.frame_setReg x _ 2) rfl id)
  | xorReg x y => exact .inl (.of_frame rfl (s.frame_setReg x _ 2) rfl id)
  | ldFromDT x => exact .inl (.of_frame rfl (s.frame_setReg x _ 2) rfl id)
  | addReg x y =>
    exact .inl (.of_frame rfl (s.frame_writeFlagResult ..) (by rw [State.writeFlagResult_eq]; rfl)
      (by rw [State.writeFlagResult_eq]; exact id))
  | subReg x y =>
    exact .inl (.of_frame rfl (s.frame_writeFlagResult ..) (by rw [State.writeFlagResult_eq]; rfl)
      (by rw [State.writeFlagResult_eq]; exact id))
  | shr x =>
    exact .inl (.of_frame rfl (s.frame_writeFlagResult ..) (by rw [State.writeFlagResult_eq]; rfl)
      (by rw [State.writeFlagResult_eq]; exact id))
  | shl x =>
    exact .inl (.of_frame rfl (s.frame_writeFlagResult ..) (by rw [State.writeFlagResult_eq]; rfl)
      (by rw [State.writeFlagResult_eq]; exact id))
  | ldI nnn => exact .inl (.of_frame rfl (by constructor <;> simp [Instr.writes]) rfl id)
  | jpV0 nnn => exact .inl (.of_frame rfl (by constructor <;> intros <;> rfl) rfl id)
  | rnd x nn => exact .inl (.of_frame rfl (by constructor <;> simp +contextual [Instr.writes]) rfl id)
  | drw x y n =>
    cases h : s.indexAddrs n with
    | none => exact .inr ⟨.rangeFault, ⟨State.indexAddrs_none h, .inl ⟨x, y, n, rfl, h⟩⟩, execDrw_of_none h⟩
    | some as =>
      refine .inl (.of_frame (execDrw_of_some h) ?_ rfl fun _ => rfl)
      constructor <;> first | (intros; rfl) | skip
      · exact fun k hk => Vector.getElem_set_ne (by decide) _ fun e => hk (Fin.ext e.symm)
      · exact fun p hp => absurd trivial hp
      · exact fun hp => absurd trivial hp
  | skp x =>
    cases h : s.keyIdx (s.reg x) with
    | none => exact .inr ⟨.rangeFault, ⟨(State.keyIdx_none.1 h).1, .inr ⟨x, .inr (.inr ⟨.inl rfl, (State.keyIdx_none.1 h).2⟩)⟩⟩, execSkp_of_none h⟩
    | some k =>
      exact .inl (.of_frame (execSkp_of_some h) (s.frame_skipIf _) (by rw [State.skipIf_eq]; rfl)
        (by rw [State.skipIf_eq]; exact id))
  | sknp x =>
    cases h : s.keyIdx (s.reg x) with
    | none => exact .inr ⟨.rangeFault, ⟨(State.keyIdx_none.1 h).1, .inr ⟨x, .inr (.inr ⟨.inr rfl, (State.keyIdx_none.1 h).2⟩)⟩⟩, execSknp_of_none h⟩
    | some k =>
      exact .inl (.of_frame (execSknp_of_some h) (s.frame_skipIf _) (by rw [State.skipIf_eq]; rfl)
        (by rw [State.skipIf_eq]; exact id))
  | ldDT x => exact .inl (.of_frame rfl (by constructor <;> simp [Instr.writes]) rfl id)
  | ldST x => exact .inl (.of_frame rfl (by constructor <;> simp [Instr.writes]) rfl id)
  | addI x => exact .inl (.of_frame rfl (by constructor <;> simp [Instr.writes]) rfl id)
  | ldF x => exact .inl (.of_frame rfl (by constructor <;> simp [Instr.writes]) rfl id)
  | bcd x =>
    cases h : s.indexAddrs 3 with
    | none => exact .inr ⟨.rangeFault, ⟨State.indexAddrs_none h, .inr ⟨x, .inl ⟨rfl, h⟩⟩⟩, execBcd_of_none h⟩
    | some as =>
      refine .inl ⟨_, execBcd_of_some h, ?_, ?_, ?_⟩
      · obtain ⟨hm⟩ := s.frame_writeAll as (bcdDigits (s.reg x)) 2
        constructor <;> first | assumption | skip
        exact fun a ha => hm a fun ha' => ha ⟨as, h, ha'⟩
      · exact fun hs => State.memCanonical_writeAll hs as _ (State.indexAddrs_lt h)
      · rw [s.writeAll_eq]; exact id
  | store x =>
    cases h : s.indexAddrs (x.val + 1) with
    | none => exact .inr ⟨.rangeFault, ⟨State.indexAddrs_none h, .inr ⟨x, .inr (.inl ⟨.inl rfl, h⟩)⟩⟩, execStore_of_none h⟩
    | some as =>
      refine .inl ⟨_, execStore_of_some h, ?_, ?_, ?_⟩
      · obtain ⟨hm⟩ := s.frame_writeAll as (s.regsFrom 0 (x.val + 1)) 2
        constructor <;> first | assumption | skip
        · exact fun a ha => hm a fun ha' => ha ⟨as, h, ha'⟩
        · exact fun hi => absurd trivial hi
      · exact fun hs => State.memCanonical_writeAll hs as _ (State.indexAddrs_lt h)
      · rw [s.writeAll_eq]; exact id
  | load x =>
    cases h : s.indexAddrs (x.val + 1) with
    | none => exact .inr ⟨.rangeFault, ⟨State.indexAddrs_none h, .inr ⟨x, .inr (.inl ⟨.inr rfl, h⟩)⟩⟩, execLoad_of_none h⟩
    | some as =>
      have hl := State.indexAddrs_length h
      have hr := s.reg_setRegsFrom 0 (s.readAll as)
      refine .inl (.of_frame (execLoad_of_some h) ?_ ?_ ?_)
      · rw [s.setRegsFrom_eq] at *
        constructor <;> first | (intros; rfl) | skip
        · intro k hk
          have hk' : as.length ≤ k.val := by
            have := Fin.not_le.1 hk
            omega
          exact (hr k).trans (by simp [s.readAll_eq_map, List.getD, hk'])
        · exact fun hi => absurd trivial hi
      · rw [s.setRegsFrom_eq]; rfl
      · rw [s.setRegsFrom_eq]; exact id

end Sys2Proof.Machine
end

