-- ==== Sys2Proof/Laws/PerInstr.lean ====
section
/-! SUPPORT. Statements made of every instruction, one lemma a constructor. `EncodingRow`: the word of an instruction selects
its own row of the opcode map, and that row is in the table (30_encoding.md R66, R80). -/

namespace Sys2Proof.Laws

/-- The encoded word selects the instruction's row of R66. -/
def EncodingRow.Statement (i : Instr) : Prop := selects (encode i) i.row = true ∧ i.row ∈ opcodeTable

theorem selects_F000 (opc m : Word) (h : encodeXYN (Opcode.family opc) 0 0 0 = m) : selects opc (0xF000, m) = true := by
  rw [selects, and_F000, h]; exact beq_self_eq_true m

theorem selects_F00F (opc m : Word) (h : encodeXYN (Opcode.family opc) 0 0 (Opcode.n opc) = m) :
    selects opc (0xF00F, m) = true := by
  rw [selects, and_F00F, h]; exact beq_self_eq_true m

theorem selects_F0FF (opc m : Word) (h : encodeXNN (Opcode.family opc) 0 (Opcode.nn opc) = m) :
    selects opc (0xF0FF, m) = true := by
  rw [selects, and_F0FF, h]; exact beq_self_eq_true m

theorem EncodingRow.cls : EncodingRow.Statement .cls :=
  ⟨by decide, by decide⟩

theorem EncodingRow.ret : EncodingRow.Statement .ret :=
  ⟨by decide, by decide⟩

theorem EncodingRow.jp (nnn : Addr12) : EncodingRow.Statement (.jp nnn) :=
  ⟨selects_F000 _ _ (by simp [encode]; decide), by simp [Instr.row, opcodeTable]⟩

theorem EncodingRow.call (nnn : Addr12) : EncodingRow.Statement (.call nnn) :=
  ⟨selects_F000 _ _ (by simp [encode]; decide), by simp [Instr.row, opcodeTable]⟩

theorem EncodingRow.seImm (x : RegIdx) (nn : Byte) : EncodingRow.Statement (.seImm x nn) :=
  ⟨selects_F000 _ _ (by simp [encode]; decide), by simp [Instr.row, opcodeTable]⟩

theorem EncodingRow.sneImm (x : RegIdx) (nn : Byte) : EncodingRow.Statement (.sneImm x nn) :=
  ⟨selects_F000 _ _ (by simp [encode]; decide), by simp [Instr.row, opcodeTable]⟩

theorem EncodingRow.seReg (x : RegIdx) (y : RegIdx) : EncodingRow.Statement (.seReg x y) :=
  ⟨selects_F00F _ _ (by simp [encode]; decide), by simp [Instr.row, opcodeTable]⟩

theorem EncodingRow.ldImm (x : RegIdx) (nn : Byte) : EncodingRow.Statement (.ldImm x nn) :=
  ⟨selects_F000 _ _ (by simp [encode]; decide), by simp [Instr.row, opcodeTable]⟩

theorem EncodingRow.addImm (x : RegIdx) (nn : Byte) : EncodingRow.Statement (.addImm x nn) :=
  ⟨selects_F000 _ _ (by simp [encode]; decide), by simp [Instr.row, opcodeTable]⟩

theorem EncodingRow.ldReg (x : RegIdx) (y : RegIdx) : EncodingRow.Statement (.ldReg x y) :=
  ⟨selects_F00F _ _ (by simp [encode]; decide), by simp [Instr.row, opcodeTable]⟩

theorem EncodingRow.orReg (x : RegIdx) (y : RegIdx) : EncodingRow.Statement (.orReg x y) :=
  ⟨selects_F00F _ _ (by simp [encode]; decide), by simp [Instr.row, opcodeTable]⟩

theorem EncodingRow.andReg (x : RegIdx) (y : RegIdx) : EncodingRow.Statement (.andReg x y) :=
  ⟨selects_F00F _ _ (by simp [encode]; decide), by simp [Instr.row, opcodeTable]⟩

theorem EncodingRow.xorReg (x : RegIdx) (y : RegIdx) : EncodingRow.Statement (.xorReg x y) :=
  ⟨selects_F00F _ _ (by simp [encode]; decide), by simp [Instr.row, opcodeTable]⟩

theorem EncodingRow.addReg (x : RegIdx) (y : RegIdx) : EncodingRow.Statement (.addReg x y) :=
  ⟨selects_F00F _ _ (by simp [encode]; decide), by simp [Instr.row, opcodeTable]⟩

theorem EncodingRow.subReg (x : RegIdx) (y : RegIdx) : EncodingRow.Statement (.subReg x y) :=
  ⟨selects_F00F _ _ (by simp [encode]; decide), by simp [Instr.row, opcodeTable]⟩

theorem EncodingRow.shr (x : RegIdx) : EncodingRow.Statement (.shr x) :=
  ⟨selects_F00F _ _ (by simp [encode]; decide), by simp [Instr.row, opcodeTable]⟩

theorem EncodingRow.shl (x : RegIdx) : EncodingRow.Statement (.shl x) :=
  ⟨selects_F00F _ _ (by simp [encode]; decide), by simp [Instr.row, opcodeTable]⟩

theorem EncodingRow.sneReg (x : RegIdx) (y : RegIdx) : EncodingRow.Statement (.sneReg x y) :=
  ⟨selects_F00F _ _ (by simp [encode]; decide), by simp [Instr.row, opcodeTable]⟩

theorem EncodingRow.ldI (nnn : Addr12) : EncodingRow.Statement (.ldI nnn) :=
  ⟨selects_F000 _ _ (by simp [encode]; decide), by simp [Instr.row, opcodeTable]⟩

theorem EncodingRow.jpV0 (nnn : Addr12) : EncodingRow.Statement (.jpV0 nnn) :=
  ⟨selects_F000 _ _ (by simp [encode]; decide), by simp [Instr.row, opcodeTable]⟩

theorem EncodingRow.rnd (x : RegIdx) (nn : Byte) : EncodingRow.Statement (.rnd x nn) :=
  ⟨selects_F000 _ _ (by simp [encode]; decide), by simp [Instr.row, opcodeTable]⟩

theorem EncodingRow.drw (x : RegIdx) (y : RegIdx) (n : Nat) : EncodingRow.Statement (.drw x y n) :=
  ⟨selects_F000 _ _ (by simp [encode]; decide), by simp [Instr.row, opcodeTable]⟩

theorem EncodingRow.skp (x : RegIdx) : EncodingRow.Statement (.skp x) :=
  ⟨selects_F0FF _ _ (by simp [encode]; decide), by simp [Instr.row, opcodeTable]⟩

theorem EncodingRow.sknp (x : RegIdx) : EncodingRow.Statement (.sknp x) :=
  ⟨selects_F0FF _ _ (by simp [encode]; decide), by simp [Instr.row, opcodeTable]⟩

theorem EncodingRow.ldFromDT (x : RegIdx) : EncodingRow.Statement (.ldFromDT x) :=
  ⟨selects_F0FF _ _ (by simp [encode]; decide), by simp [Instr.row, opcodeTable]⟩

theorem EncodingRow.ldDT (x : RegIdx) : EncodingRow.Statement (.ldDT x) :=
  ⟨selects_F0FF _ _ (by simp [encode]; decide), by simp [Instr.row, opcodeTable]⟩

theorem EncodingRow.ldST (x : RegIdx) : EncodingRow.Statement (.ldST x) :=
  ⟨selects_F0FF _ _ (by simp [encode]; decide), by simp [Instr.row, opcodeTable]⟩

theorem EncodingRow.addI (x : RegIdx) : EncodingRow.Statement (.addI x) :=
  ⟨selects_F0FF _ _ (by simp [encode]; decide), by simp [Instr.row, opcodeTable]⟩

theorem EncodingRow.ldF (x : RegIdx) : EncodingRow.Statement (.ldF x) :=
  ⟨selects_F0FF _ _ (by simp [encode]; decide), by simp [Instr.row, opcodeTable]⟩

theorem EncodingRow.bcd (x : RegIdx) : EncodingRow.Statement (.bcd x) :=
  ⟨selects_F0FF _ _ (by simp [encode]; decide), by simp [Instr.row, opcodeTable]⟩

theorem EncodingRow.store (x : RegIdx) : EncodingRow.Statement (.store x) :=
  ⟨selects_F0FF _ _ (by simp [encode]; decide), by simp [Instr.row, opcodeTable]⟩

theorem EncodingRow.load (x : RegIdx) : EncodingRow.Statement (.load x) :=
  ⟨selects_F0FF _ _ (by simp [encode]; decide), by simp [Instr.row, opcodeTable]⟩

end Sys2Proof.Laws
end

