-- ==== Sys2Proof/Laws/Step.lean ====
section
/-! SUPPORT. Everything a step of a running CORE can do, said once (40_step.md R89): a fetch fault, an instruction that
completes and is ticked, an instruction that raises a fault, or an unknown opcode under each policy. -/

namespace Sys2Proof.Machine

/-- The step from `s` to `t` completed the instruction `i` fetched as `opc`: `u` is the state before the tick. -/
structure StepCompleted (s t u : State) (opc : Word) (i : Instr) : Prop where
  fetched : s.fetch = some opc
  decoded : decode opc = .ok i
  executed : exec i s = .next u
  frame : Frame (Instr.writes s i) s u
  memory : s.MemCanonical → u.MemCanonical
  drawFlag : s.drawFlag = true → u.drawFlag = true
  ticked : t = u.tick

/-- The step from `s` to `t` raised the fault `c` in the instruction `i` fetched as `opc`. -/
structure StepFaulted (s t : State) (opc : Word) (i : Instr) (c : FaultCause) : Prop where
  fetched : s.fetch = some opc
  decoded : decode opc = .ok i
  raises : Instr.faultsWith s i c
  after : t = s.raiseFault c opc

/-- The step from `s` to `t` met the unknown opcode `opc`. -/
structure StepUnknown (s t : State) (opc : Word) : Prop where
  fetched : s.fetch = some opc
  rejected : decode opc = .error (.unknownOpcode opc)
  skip : s.params.unknownOpcode = .skip → t = ((s.reportUnknown opc).advance 2).tick
  stall : s.params.unknownOpcode = .stall → t = (s.reportUnknown opc).tick
  halt : s.params.unknownOpcode = .halt → t = s.raiseFault .unknownOpcode opc

/-- An instruction that can raise a fault is no shift, so its word is the one that was fetched. -/
theorem encode_of_faultsWith {s : State} {opc : Word} {i : Instr} {c : FaultCause} (hd : decode opc = .ok i)
    (hc : Instr.faultsWith s i c) : encode i = opc := by
  rcases (decode_ok hd).2 with h | ⟨x, y, rfl, -⟩ | ⟨x, y, rfl, -⟩
  · exact h.symm
  · cases c <;> simp [Instr.faultsWith, State.OutOfRange] at hc
  · cases c <;> simp [Instr.faultsWith, State.OutOfRange] at hc

theorem step_spec {s t : State} (hr : s.runState = .running) (h : step s = .next t) :
    (s.fetch = none ∧ s.params.oob = .fault ∧ t = s.raiseFault .rangeFault 0x0000) ∨
    (∃ opc i u, StepCompleted s t u opc i) ∨ (∃ opc i c, StepFaulted s t opc i c) ∨ ∃ opc, StepUnknown s t opc := by
  cases hf : s.fetch with
  | none =>
    rw [step_of_fetch_none hr hf] at h
    cases h
    exact .inl ⟨rfl, (State.fetch_none.1 hf).1, rfl⟩
  | some opc =>
    rw [step_of_fetch_some hr hf] at h
    refine .inr ?_
    cases hd : decode opc with
    | ok i =>
      rw [hd, State.executeDecoded] at h
      rcases exec_spec i s with ⟨u, hu, hfr, hm, hdf⟩ | ⟨c, hc, he⟩
      · rw [hu, finish, State.completeStep_of_running (hfr.runState.trans hr)] at h
        cases h
        exact .inl ⟨opc, i, u, hf, hd, hu, hfr, hm, hdf, rfl⟩
      · rw [he, finish, State.completeStep_of_halted rfl, encode_of_faultsWith hd hc] at h
        cases h
        exact .inr (.inl ⟨opc, i, c, hf, hd, hc, rfl⟩)
    | error r =>
      cases decode_error hd
      rw [hd, State.executeDecoded, finish] at h
      refine .inr (.inr ⟨opc, hf, hd, ?_, ?_, ?_⟩)
      · intro hp
        simp only [State.handleUnknown, hp] at h
        rw [State.completeStep_of_running (show ((s.reportUnknown opc).advance 2).runState = .running from hr)] at h
        cases h; rfl
      · intro hp
        simp only [State.handleUnknown, hp] at h
        rw [State.completeStep_of_running (show (s.reportUnknown opc).runState = .running from hr)] at h
        cases h; rfl
      · intro hp
        simp only [State.handleUnknown, hp] at h
        rw [State.completeStep_of_halted rfl] at h
        cases h; rfl

end Sys2Proof.Machine
end

