-- ==== Sys2Proof/Tests/Slice0.lean ====
section
/-! SUPPORT. Tests: the well-formedness check refuses, every constructor's word written out from 30_encoding.md decodes to
it, the vectors of 95_test_vectors.md (their names stand in the docstrings) run for one step, and for each statement with
hypotheses a concrete state and operands that meet them. -/

namespace Sys2Proof.Tests

open Sys2Proof.Machine

/-! ### Well-formedness -/

theorem test_wf_refuses_sixteen_rows : (Instr.drw 0 0 16).wf = false := by decide

theorem test_wf_accepts_fifteen_rows : (Instr.drw 15 15 15).wf = true := by decide

/-! ### Decoding: words written out from the rows of R66 (examples of 41 to 45) -/

theorem test_decode_cls : decode 0x00E0 = .ok (.cls) := by decide

theorem test_decode_ret : decode 0x00EE = .ok (.ret) := by decide

theorem test_decode_jp : decode 0x1ABC = .ok (.jp 0xABC) := by decide

theorem test_decode_call : decode 0x2321 = .ok (.call 0x321) := by decide

theorem test_decode_seImm : decode 0x3A42 = .ok (.seImm 0xA 0x42) := by decide

theorem test_decode_sneImm : decode 0x4A42 = .ok (.sneImm 0xA 0x42) := by decide

theorem test_decode_seReg : decode 0x5120 = .ok (.seReg 1 2) := by decide

theorem test_decode_ldImm : decode 0x6AFF = .ok (.ldImm 0xA 0xFF) := by decide

theorem test_decode_addImm : decode 0x7A01 = .ok (.addImm 0xA 0x01) := by decide

theorem test_decode_ldReg : decode 0x8120 = .ok (.ldReg 1 2) := by decide

theorem test_decode_orReg : decode 0x8121 = .ok (.orReg 1 2) := by decide

theorem test_decode_andReg : decode 0x8122 = .ok (.andReg 1 2) := by decide

theorem test_decode_xorReg : decode 0x8123 = .ok (.xorReg 1 2) := by decide

theorem test_decode_addReg : decode 0x8124 = .ok (.addReg 1 2) := by decide

theorem test_decode_subReg : decode 0x8125 = .ok (.subReg 1 2) := by decide

theorem test_decode_shr : decode 0x8126 = .ok (.shr 1) := by decide

theorem test_decode_shl : decode 0x811E = .ok (.shl 1) := by decide

theorem test_decode_sneReg : decode 0x9120 = .ok (.sneReg 1 2) := by decide

theorem test_decode_ldI : decode 0xA123 = .ok (.ldI 0x123) := by decide

theorem test_decode_jpV0 : decode 0xB300 = .ok (.jpV0 0x300) := by decide

theorem test_decode_rnd : decode 0xC30F = .ok (.rnd 3 0x0F) := by decide

theorem test_decode_drw : decode 0xD125 = .ok (.drw 1 2 5) := by decide

theorem test_decode_skp : decode 0xE59E = .ok (.skp 5) := by decide

theorem test_decode_sknp : decode 0xE5A1 = .ok (.sknp 5) := by decide

theorem test_decode_ldFromDT : decode 0xF307 = .ok (.ldFromDT 3) := by decide

theorem test_decode_ldDT : decode 0xF315 = .ok (.ldDT 3) := by decide

theorem test_decode_ldST : decode 0xF318 = .ok (.ldST 3) := by decide

theorem test_decode_addI : decode 0xF21E = .ok (.addI 2) := by decide

theorem test_decode_ldF : decode 0xF029 = .ok (.ldF 0) := by decide

theorem test_decode_bcd : decode 0xF533 = .ok (.bcd 5) := by decide

theorem test_decode_store : decode 0xF255 = .ok (.store 2) := by decide

theorem test_decode_load : decode 0xFF65 = .ok (.load 15) := by decide

theorem test_decode_unknown :
    decode 0x0000 = .error (.unknownOpcode 0x0000) ∧ decode 0x5121 = .error (.unknownOpcode 0x5121) ∧
    decode 0x8127 = .error (.unknownOpcode 0x8127) ∧ decode 0x800F = .error (.unknownOpcode 0x800F) ∧
    decode 0xE5A2 = .error (.unknownOpcode 0xE5A2) := by decide

theorem test_decodeBytes_big_endian : decodeBytes [0xA2, 0xF0, 0x12] = .ok (.ldI 0x2F0, [0x12]) := by decide

theorem test_decodeBytes_truncated : decodeBytes [0xA2] = .error .truncated := by decide

theorem test_decodeTableWord : decodeTableWord 16 0xD125 = some (.drw 1 2 5) := by decide

/-! ### One step -/

/-- One step of `s` with the word `w` placed where it fetches, seen through `f`. -/
def after {α : Type} (s : State) (w : Nat) (f : State → α) : Option α :=
  match step (s.withFetchWord 16 w) with
  | .next t => some (f t)
  | .fault _ => none
  | .refused _ => none

/-- The reset state with some registers set. -/
def regs (l : List (RegIdx × Byte)) : State := l.foldl (fun s p => s.setReg p.1 p.2) State.reset

/-- A state with bytes written from address `a` on. -/
def bytes (s : State) (a : Nat) (bs : List Byte) : State := s.copyImage a bs

/-- A state under `OOB_POLICY = Fault`. -/
def faulting (s : State) : State := { s with params := { s.params with oob := .fault } }

/-- A state under another order of VF. -/
def order (s : State) (o : VfOrder) : State := { s with params := { s.params with vfOrder := o } }

/-- A state under another policy for unknown opcodes. -/
def policy (s : State) (p : UnknownOpcodePolicy) : State := { s with params := { s.params with unknownOpcode := p } }

/-- What the status registers say of a state. -/
def halt (t : State) : RunState × FaultCause × Word × Word × Word :=
  (t.runState, t.faultCause, t.faultOpcode, t.faultPc, t.pc)

/-! #### Control flow -/

/-- C1, S7 -/
theorem test_ret :
    after { State.reset with sp := 11, stack := State.reset.stack.set 10 0x0028 } 0x00EE (fun t => (t.sp.val, t.pc)) = some (10, 0x002A) := by decide

/-- C3 -/
theorem test_ret_underflow :
    after { State.reset with dt := 5 } 0x00EE (fun t => (halt t, t.sp.val, t.dt)) = some ((.halted, .stackUnderflow, 0x00EE, 0x0200, 0x0200), 0, 5) := by decide

/-- C4 -/
theorem test_jp :
    after State.reset 0x1ABC (fun t => t.pc) = some 0x0ABC := by decide

/-- C6, S8 -/
theorem test_call :
    after { State.reset with pc := 0x0240, sp := 3 } 0x2321 (fun t => (t.stackAt 3, t.sp.val, t.pc)) = some (0x0240, 4, 0x0321) := by decide

/-- C7 -/
theorem test_call_overflow :
    after { State.reset with sp := 16 } 0x2321 (fun t => (halt t, t.sp.val)) = some ((.halted, .stackOverflow, 0x2321, 0x0200, 0x0200), 16) := by decide

/-- C9 -/
theorem test_jpV0 :
    after (regs [(0, 0xFF)]) 0xBFFF (fun t => t.pc) = some 0x10FE := by decide

/-- C10 -/
theorem test_seImm :
    after (regs [(0xA, 0x42)]) 0x3A42 (fun t => t.pc) = some 0x0204 := by decide

/-- C18 -/
theorem test_seImm_wraps :
    after { State.reset with pc := 0xFFFC } 0x3000 (fun t => t.pc) = some 0x0000 := by decide

/-- C12 -/
theorem test_sneImm :
    after (regs [(0xA, 0x42)]) 0x4A42 (fun t => t.pc) = some 0x0202 := by decide

/-- C14 -/
theorem test_seReg :
    after (regs [(1, 7), (2, 7)]) 0x5120 (fun t => t.pc) = some 0x0204 := by decide

/-- C16 -/
theorem test_sneReg :
    after (regs [(1, 7), (2, 8)]) 0x9120 (fun t => t.pc) = some 0x0204 := by decide

/-! #### ALU -/

/-- A1 -/
theorem test_ldImm :
    after State.reset 0x6AFF (fun t => (t.reg 0xA, t.pc)) = some (0xFF, 0x0202) := by decide

/-- A2 -/
theorem test_addImm :
    after (regs [(0xA, 0xFF), (vf, 0x55)]) 0x7A01 (fun t => (t.reg 0xA, t.reg vf)) = some (0x00, 0x55) := by decide

/-- A4 -/
theorem test_ldReg :
    after (regs [(2, 0x99)]) 0x8120 (fun t => t.reg 1) = some 0x99 := by decide

/-- A5 -/
theorem test_orReg :
    after (regs [(1, 0x0F), (2, 0xF0), (vf, 0x07)]) 0x8121 (fun t => (t.reg 1, t.reg vf)) = some (0xFF, 0x07) := by decide

/-- A6 -/
theorem test_andReg :
    after (regs [(1, 0x3C), (2, 0x0F)]) 0x8122 (fun t => t.reg 1) = some 0x0C := by decide

/-- A7 -/
theorem test_xorReg :
    after (regs [(1, 0xFF), (2, 0x0F)]) 0x8123 (fun t => t.reg 1) = some 0xF0 := by decide

/-- A9, S2 -/
theorem test_addReg :
    after (regs [(1, 0xFF), (2, 0x01)]) 0x8124 (fun t => (t.reg 1, t.reg vf)) = some (0x00, 0x01) := by decide

/-- A10 -/
theorem test_addReg_no_carry :
    after (regs [(1, 0x80), (2, 0x7F)]) 0x8124 (fun t => (t.reg 1, t.reg vf)) = some (0xFF, 0x00) := by decide

/-- A12, S3 -/
theorem test_subReg_borrow :
    after (regs [(1, 0x00), (2, 0x01)]) 0x8125 (fun t => (t.reg 1, t.reg vf)) = some (0xFF, 0x00) := by decide

/-- A15, S12 -/
theorem test_subReg_equal :
    after (regs [(1, 0x05), (2, 0x05)]) 0x8125 (fun t => (t.reg 1, t.reg vf)) = some (0x00, 0x01) := by decide

/-- A16 -/
theorem test_shr_ignores_y :
    after (regs [(1, 0x04), (2, 0xFF)]) 0x8126 (fun t => (t.reg 1, t.reg vf, t.reg 2)) = some (0x02, 0x00, 0xFF) := by decide

/-- A17 -/
theorem test_shl :
    after (regs [(1, 0x81)]) 0x811E (fun t => (t.reg 1, t.reg vf)) = some (0x02, 0x01) := by decide

/-- A24, `Sequential` -/
theorem test_addReg_to_vf :
    after (order (regs [(vf, 0xF0), (1, 0x20)]) .sequential) 0x8F14 (fun t => t.reg vf) = some 0x21 := by decide

/-- A25, `Sequential` -/
theorem test_subReg_of_vf :
    after (order (regs [(1, 0x02), (vf, 0x03)]) .sequential) 0x81F5 (fun t => (t.reg 1, t.reg vf)) = some (0x02, 0x00) := by decide

/-- A27, `LatchedFlagLast` -/
theorem test_shr_of_vf :
    after (order (regs [(vf, 0x03)]) .latchedFlagLast) 0x8F06 (fun t => t.reg vf) = some 0x01 := by decide

/-- A28, `LatchedFlagFirst` -/
theorem test_shl_of_vf :
    after (regs [(vf, 0x81)]) 0x8F0E (fun t => t.reg vf) = some 0x02 := by decide

/-- A20: whatever byte is drawn, a zero mask gives zero. -/
theorem test_rnd_zero_mask (s : State) : ∃ t, exec (.rnd 3 0x00) s = .next t ∧ t.reg 3 = 0x00 :=
  ⟨_, rfl, by simp⟩

/-- Cxnn draws one byte. -/
theorem test_rnd_draws_one : after State.reset 0xC30F (fun t => (t.rngDraws, t.pc)) = some (1, 0x0202) := by
  decide

/-! #### Index and memory -/

/-- M1 -/
theorem test_ldI :
    after State.reset 0xA123 (fun t => t.i) = some 0x0123 := by decide

/-- M2, S9 -/
theorem test_addI :
    after { (regs [(2, 0x32), (vf, 0x09)]) with i := 0xFFFE } 0xF21E (fun t => (t.i, t.reg vf)) = some (0x0030, 0x09) := by decide

/-- M6 -/
theorem test_ldF :
    after (regs [(0, 0xFF)]) 0xF029 (fun t => t.i) = some 0x04FB := by decide

/-- M6, `LowNibble` -/
theorem test_ldF_low_nibble :
    after { (regs [(0, 0xFF)]) with params := { Params.default with fontIndex := .lowNibble } } 0xF029 (fun t => t.i) = some 0x004B := by decide

/-- M11 -/
theorem test_bcd :
    after { (regs [(5, 255)]) with i := 0x300 } 0xF533 (fun t => (t.readMem 0x300, t.readMem 0x301, t.readMem 0x302, t.i)) = some (2, 5, 5, 0x0300) := by decide

/-- M12 -/
theorem test_bcd_wraps :
    after { (regs [(5, 123)]) with i := 0xFFE } 0xF533 (fun t => (t.readMem 0xFFE, t.readMem 0xFFF, t.readMem 0x000)) = some (1, 2, 3) := by decide

/-- M14 -/
theorem test_store :
    after { (regs [(0, 1), (1, 2), (2, 3), (3, 9)]) with i := 0x400 } 0xF255 (fun t => (t.readMem 0x400, t.readMem 0x402, t.readMem 0x403, t.i)) = some (1, 3, 0, 0x0403) := by decide

/-- M17, `Fault` -/
theorem test_store_faults :
    after (faulting { (regs [(0, 0xAA), (1, 0xBB)]) with i := 0xFFFF }) 0xF155 (fun t => (halt t, t.readMem 0xFFF, t.i)) = some ((.halted, .rangeFault, 0xF155, 0x0200, 0x0200), 0, 0xFFFF) := by decide

/-- M16 -/
theorem test_load :
    after (bytes { State.reset with i := 0x400 } 0x400
      [0x10, 0x11, 0x12, 0x13, 0x14, 0x15, 0x16, 0x17, 0x18, 0x19, 0x1A, 0x1B, 0x1C, 0x1D, 0x1E, 0x1F]) 0xFF65
      (fun t => (t.reg 0, t.reg 14, t.reg 15, t.i)) = some (0x10, 0x1E, 0x1F, 0x0410) := by decide

/-- M15 -/
theorem test_load_leaves_higher :
    after (bytes { State.reset with i := 0x400 } 0x400 [0x77, 0x66]) 0xF065 (fun t => (t.reg 0, t.reg 1, t.i)) = some (0x77, 0x00, 0x0401) := by decide

/-! #### Display -/

/-- D1 -/
theorem test_cls :
    after { State.reset with fb := State.reset.fb.toggle (5, 5) } 0x00E0 (fun t => (t.pixel (5, 5), t.drawFlag, t.pc)) = some (false, true, 0x0202) := by decide

/-- D5 -/
theorem test_drw_vf_as_operand :
    after (bytes { (regs [(0, 2), (vf, 10)]) with i := 0x300 } 0x300 [0xC0]) 0xDF01 (fun t => ([t.pixel (9, 2), t.pixel (10, 2), t.pixel (11, 2), t.pixel (12, 2)], t.reg vf)) = some ([false, true, true, false], 0) := by decide

/-- D8 -/
theorem test_drw_collision :
    after (bytes { State.reset with i := 0x300, fb := (State.reset.fb.toggle (0, 0)).toggle (4, 0) } 0x300 [0xF0]) 0xD001 (fun t => ([t.pixel (0, 0), t.pixel (1, 0), t.pixel (3, 0), t.pixel (4, 0)], t.reg vf)) = some ([false, true, true, true], 1) := by decide

/-! #### Timers and keys -/

/-- T1 -/
theorem test_ldFromDT :
    after { State.reset with dt := 9 } 0xF307 (fun t => (t.reg 3, t.dt)) = some (9, 8) := by decide

/-- T2 -/
theorem test_ldDT :
    after (regs [(3, 9)]) 0xF315 (fun t => t.dt) = some 8 := by decide

/-- T4 -/
theorem test_ldST_pulse :
    after (regs [(3, 1)]) 0xF318 (fun t => (t.st, t.soundFlag, t.events)) = some (0, true, [.soundPulse]) := by decide

/-- T5 -/
theorem test_ldST_silences :
    after { State.reset with st := 1 } 0xF318 (fun t => (t.st, t.soundFlag, t.events)) = some (0, false, []) := by decide

/-- K5 -/
theorem test_skp :
    after { (regs [(5, 0x15)]) with keys := State.reset.keys.set 5 true } 0xE59E (fun t => t.pc) = some 0x0204 := by decide

/-- K5, `Fault` -/
theorem test_skp_faults :
    after (faulting (regs [(5, 0x15)])) 0xE59E (fun t => halt t) = some (.halted, .rangeFault, 0xE59E, 0x0200, 0x0200) := by decide

/-- K3 -/
theorem test_sknp :
    after (regs [(5, 5)]) 0xE5A1 (fun t => t.pc) = some 0x0204 := by decide

/-! #### Step, fetch and load -/

/-- A21 -/
theorem test_unknown_skip :
    after State.reset 0x8127 (fun t => (halt t, t.unknownFlag, t.events)) = some ((.running, .unknownOpcode, 0x8127, 0x0200, 0x0202), true, [.unknownOpcode 0x8127 0x8]) := by decide

/-- A22 -/
theorem test_unknown_stall :
    after (policy State.reset .stall) 0x8128 (fun t => halt t) = some (.running, .unknownOpcode, 0x8128, 0x0200, 0x0200) := by decide

/-- A23 -/
theorem test_unknown_halt :
    after (policy { State.reset with dt := 5 } .halt) 0x800F (fun t => (halt t, t.dt)) = some ((.halted, .unknownOpcode, 0x800F, 0x0200, 0x0200), 5) := by decide

/-- F1 -/
theorem test_fetch_wraps :
    after { State.reset with pc := 0xFFF } 0x61F0 (fun t => (t.reg 1, t.pc)) = some (0xF0, 0x1001) := by decide

/-- F1, `Fault` -/
theorem test_fetch_faults : (match step (faulting { State.reset with pc := 0xFFF }) with
    | .next t => some (halt t)
    | .fault _ => none
    | .refused _ => none) = some (.halted, .rangeFault, 0x0000, 0x0FFF, 0x0FFF) := by decide

/-- L2 -/
theorem test_load_image : (match transact (.load [0x12, 0x34]) State.reset with
    | .next (t, a) => some (a, [t.readMem 0x1FF, t.readMem 0x200, t.readMem 0x201, t.readMem 0x202])
    | .fault _ => none
    | .refused _ => none) = some (.ok, [0x00, 0x12, 0x34, 0x00]) := by decide

/-! ### A state and operands for the hypotheses of each statement -/

theorem witness_DecodeOfEncodeIsIdentity : (Instr.drw 3 4 15).wf = true ∧ (Instr.drw 3 4 0).wf = true := by decide

theorem witness_OnlyShiftsIgnoreABit :
    decode 0x8125 = .ok (.subReg 1 2) ∧ (∀ x, Instr.subReg 1 2 ≠ .shr x ∧ Instr.subReg 1 2 ≠ .shl x) ∧
    (0 : RegIdx) ≠ 1 ∧ vf ≠ (1 : RegIdx) := by
  refine ⟨by decide, fun x => ⟨?_, ?_⟩, by decide, by decide⟩ <;> rintro ⟨⟩

theorem witness_DecodeAgreesWithTable :
    decode 0x812E = .ok (.shl 1) ∧ (0xF00F, 0x800E) ∈ opcodeTable ∧ selects 0x812E (0xF00F, 0x800E) = true ∧
    decode 0x812F = .error (.unknownOpcode 0x812F) := by decide

theorem witness_AddSubResultAndFlag : (14 : RegIdx) ≠ vf ∧ (0 : RegIdx) ≠ vf := by decide

theorem witness_ShiftsResultAndFlag : (14 : RegIdx) ≠ vf := by decide

theorem witness_VfOperandOutcomes : (14 : RegIdx) ≠ vf ∧ (0 : RegIdx) ≠ vf := by decide

theorem witness_RndMasksOneDraw : ∃ a b : Byte, a = 0x00 ∧ b = 0xFF := ⟨_, _, rfl, rfl⟩

/-- The reset state at a depth of the stack. -/
def deep (n : Fin 17) : State := { State.reset with sp := n }

theorem witness_CallPushesOrOverflows : (deep 0).sp.val < 16 ∧ (deep 15).sp.val < 16 ∧ (deep 16).sp.val = 16 := by decide

theorem witness_RetPopsOrUnderflows : 0 < (deep 1).sp.val ∧ 0 < (deep 16).sp.val ∧ (deep 0).sp.val = 0 := by decide

theorem witness_ReturnUndoesCall : (deep 15).sp.val < 16 := by decide

theorem witness_SkipsOnRegisters : (1 : Nibble) ≠ 0 ∧ (15 : Nibble) ≠ 0 := by decide

/-- The reset state at an index. -/
def at' (i : Word) : State := { State.reset with i := i }

theorem witness_IndexAddressesFollowAddr :
    (faulting (at' 0xFFE)).indexAddrs 3 = none ∧ (faulting (at' 0xFFE)).indexAddrs 2 = some [0xFFE, 0xFFF] ∧
    (at' 0xFFE).indexAddrs 3 = some [0xFFE, 0xFFF, 0x000] ∧ (faulting (at' 0xFFFF)).indexAddrs 0 = some [] := by decide

theorem witness_BcdStoresDigits :
    (at' 0xFFE).indexAddrs 3 = some [0xFFE, 0xFFF, 0x000] ∧
    (faulting (at' 0xFFD)).indexAddrs 3 = some [0xFFD, 0xFFE, 0xFFF] := by decide

theorem witness_StoreWritesV0ToVx :
    (at' 0xFFFF).indexAddrs ((1 : RegIdx).val + 1) = some [0xFFF, 0x000] ∧
    (at' 0x000).indexAddrs ((15 : RegIdx).val + 1) = some (List.range 16) ∧
    ([0xFFF, 0x000] : List Nat)[(1 : RegIdx).val]? = some 0x000 := by decide

theorem witness_LoadReadsV0ToVx :
    (faulting (at' 0xFFF)).indexAddrs ((0 : RegIdx).val + 1) = some [0xFFF] ∧
    (at' 0x000).indexAddrs ((15 : RegIdx).val + 1) = some (List.range 16) ∧
    ([0xFFF] : List Nat)[(0 : RegIdx).val]? = some 0xFFF := by decide

theorem witness_LoadUndoesStore :
    (at' 0xFFF).i.toNat = (0xFFF : Addr12).toNat ∧
    (at' 0xFFF).indexAddrs ((1 : RegIdx).val + 1) = some [0xFFF, 0x000] := by decide

theorem witness_StoredBytesAreFetched : ∃ t opc, exec (.store 1) (at' 0x202) = .next t ∧ t.fetch = some opc ∧
    (at' 0x202).indexAddrs ((1 : RegIdx).val + 1) = some [0x202, 0x203] ∧
    ([0x202, 0x203] : List Nat)[(0 : RegIdx).val]? = some (t.pc.toNat % 4096) ∧
    ([0x202, 0x203] : List Nat)[(1 : RegIdx).val]? = some ((t.pc.toNat + 1) % 4096) :=
  ⟨_, _, rfl, rfl, by decide, by decide, by decide⟩

theorem witness_OutOfRangeIsPreciseFault :
    (faulting (at' 0xFFE)).indexAddrs 3 = none ∧ (faulting (at' 0xFFF)).indexAddrs ((1 : RegIdx).val + 1) = none ∧
    (faulting (at' 0xFF1)).indexAddrs 15 = some ((List.range 15).map (0xFF1 + ·)) ∧
    (faulting (at' 0xFF2)).indexAddrs 15 = none ∧
    (faulting (regs [(5, 0x10)])).params.oob = .fault ∧ 0x0F < ((faulting (regs [(5, 0x10)])).reg 5).toNat := by decide

/-- A row byte 0x81 at 0x300, and the index there. -/
def sprite : State := bytes (at' 0x300) 0x300 [0x81]

/-- The bit 0 of `sprite` drawn from column 63 wraps to column 6. -/
theorem witness_DrwXorsSpriteAndDetectsCollision :
    sprite.indexAddrs 1 = some [0x300] ∧ (1 < 16) ∧ sprite.SpriteLit 0 1 [0x300] (7, 0) ∧
    ({ sprite with fb := sprite.fb.toggle (7, 0) }).pixel (7, 0) = true ∧
    (sprite.setReg 0 63).SpriteLit 0 1 [0x300] (6, 0) := by
  refine ⟨by decide, by decide, ⟨0, 7, 0x300, ?_⟩, by decide, ⟨0, 7, 0x300, ?_⟩⟩ <;> decide

theorem witness_SecondDrawErasesFirst : ∃ t u, sprite.indexAddrs 1 = some [0x300] ∧ t.indexAddrs 1 = some [0x300] ∧
    exec (.drw 0 1 1) sprite = .next t ∧ (t.reg 0).toNat % 64 = (sprite.reg 0).toNat % 64 ∧
    (t.reg 1).toNat % 32 = (sprite.reg 1).toNat % 32 ∧
    ([0x300] : List Nat).map t.readMem = ([0x300] : List Nat).map sprite.readMem ∧ exec (.drw 0 1 1) t = .next u ∧
    (∃ p, sprite.SpriteLit 0 1 [0x300] p ∧ sprite.pixel p = false) ∧ sprite.readMem 0x300 ≠ 0 :=
  ⟨_, _, by decide, by decide, rfl, rfl, rfl, rfl, rfl,
    ⟨(7, 0), ⟨0, 7, 0x300, by decide⟩, by decide⟩, by decide⟩

theorem witness_DrawAfterClearNeverCollides : ∃ t, exec .cls sprite = .next t ∧ t.indexAddrs 1 = some [0x300] :=
  ⟨_, rfl, by decide⟩

theorem witness_LdSTPulsesOnlyFromOne : (regs [(3, 1)]).reg 3 = 1 ∧ (regs [(3, 0)]).reg 3 ≠ 1 ∧
    (regs [(3, 2)]).reg 3 ≠ 1 := by decide

theorem witness_KeySkipsReadLatch :
    (regs [(5, 0xFF)]).params.oob = .wrap ∧ (15 : Fin 16).val = ((regs [(5, 0xFF)]).reg 5).toNat % 16 ∧
    ((faulting (regs [(5, 0x0F)])).reg 5).toNat ≤ 0x0F := by decide

/-- A jump to itself at 0x200, with the timers running. -/
def spin : State := bytes { State.reset with dt := 9, st := 1 } 0x200 [0x12, 0x00]

/-- `spin` after some steps. -/
def spinning : Nat → State
  | 0 => spin
  | n + 1 =>
    match step (spinning n) with
    | .next t => t
    | .fault _ => spinning n
    | .refused _ => spinning n

/-- An instruction word at 0x200, run with DT = 9 and ST = 1. -/
def ticking (hi lo : Byte) : State := bytes { State.reset with dt := 9, st := 1 } 0x200 [hi, lo]

/-- A jump, Fx15, Fx18 and an unknown word, each with both timers running: every clause of the statement has a step. -/
theorem witness_EveryCompletedStepTicksOnce :
    (∃ t, (ticking 0x12 0x00).fetch = some 0x1200 ∧ step (ticking 0x12 0x00) = .next t ∧ t.runState = .running ∧
      decode 0x1200 = .ok (.jp 0x200)) ∧
    (∃ t, (ticking 0xF3 0x15).fetch = some 0xF315 ∧ step (ticking 0xF3 0x15) = .next t ∧ t.runState = .running ∧
      decode 0xF315 = .ok (.ldDT 3) ∧ ∀ x, Instr.ldDT 3 ≠ .ldST x) ∧
    (∃ t, (ticking 0xF3 0x18).fetch = some 0xF318 ∧ step (ticking 0xF3 0x18) = .next t ∧ t.runState = .running ∧
      decode 0xF318 = .ok (.ldST 3) ∧ ∀ x, Instr.ldST 3 ≠ .ldDT x) ∧
    (∃ t, (ticking 0x81 0x27).fetch = some 0x8127 ∧ step (ticking 0x81 0x27) = .next t ∧ t.runState = .running ∧
      decode 0x8127 = .error (.unknownOpcode 0x8127)) := by
  refine ⟨⟨_, by decide, rfl, by decide, by decide⟩, ⟨_, by decide, rfl, by decide, by decide, ?_⟩,
    ⟨_, by decide, rfl, by decide, by decide, ?_⟩, ⟨_, by decide, rfl, by decide, by decide⟩⟩ <;> rintro _ ⟨⟩

/-- An Fx15 step with ST = 1 ticks ST and pulses (R132, R133). -/
theorem test_ldDT_ticks_st : after { (regs [(3, 9)]) with st := 1 } 0xF315 (fun t => (t.dt, t.st, t.soundFlag, t.events)) =
    some (8, 0, true, [.soundPulse]) := by decide

/-- An Fx18 step ticks DT (R132). -/
theorem test_ldST_ticks_dt : after { (regs [(3, 9)]) with dt := 5 } 0xF318 (fun t => (t.dt, t.st)) = some (4, 8) := by
  decide

theorem witness_TimersCountDownOverSteps : ∀ k, k < 2 → (spinning k).runState = .running ∧
    step (spinning k) = .next (spinning (k + 1)) ∧ (spinning (k + 1)).runState = .running ∧
    ∀ opc x, (spinning k).fetch = some opc → decode opc ≠ .ok (.ldDT x) ∧ decode opc ≠ .ok (.ldST x) := by
  have hf : ∀ k, k < 2 → (spinning k).fetch = some 0x1200 := by decide
  have hd : decode 0x1200 = .ok (.jp 0x200) := by decide
  intro k hk
  refine ⟨?_, ?_, ?_, ?_⟩
  · revert k; decide
  · interval_cases k <;> rfl
  · revert k; decide
  · intro opc x h
    cases (hf k hk).symm.trans h
    rw [hd]
    exact ⟨(by rintro ⟨⟩), (by rintro ⟨⟩)⟩

theorem witness_FetchIsBigEndianOrFaults :
    State.reset.params.oob = .wrap ∧ (faulting { State.reset with pc := 0xFFE }).pc.toNat < 0xFFF ∧
    (faulting { State.reset with pc := 0xFFF }).runState = .running ∧
    (faulting { State.reset with pc := 0xFFF }).params.oob = .fault ∧
    0xFFF ≤ (faulting { State.reset with pc := 0xFFF }).pc.toNat := by decide

/-- A return at reset, where the stack is empty. -/
def badRet : State := bytes State.reset 0x200 [0x00, 0xEE]

theorem witness_StepRunsDecodedInstruction :
    (∃ u, spin.runState = .running ∧ spin.params.oob = .wrap ∧
      decodeBytes [spin.readMem (spin.pc.toNat % 4096), spin.readMem ((spin.pc.toNat + 1) % 4096)] = .ok (.jp 0x200, []) ∧
      exec (.jp 0x200) spin = .next u ∧ u.runState = .running) ∧
    (∃ u, badRet.runState = .running ∧ badRet.params.oob = .wrap ∧
      decodeBytes [badRet.readMem (badRet.pc.toNat % 4096), badRet.readMem ((badRet.pc.toNat + 1) % 4096)] =
        .ok (.ret, []) ∧ exec .ret badRet = .next u ∧ u.runState = .halted) :=
  ⟨⟨_, by decide, by decide, by decide, rfl, by decide⟩,
    ⟨_, by decide, by decide, by decide, rfl, by decide⟩⟩

theorem witness_StepIsInertUnlessRunning :
    ({ State.reset with runState := .halted }).runState ≠ .running ∧
    ({ State.reset with runState := .unloaded }).runState ≠ .running := by decide

/-- The unknown word 0x8127 at reset under a policy. -/
def unknown (p : UnknownOpcodePolicy) : State := bytes (policy State.reset p) 0x200 [0x81, 0x27]

theorem witness_UnknownOpcodeFollowsPolicy : ∀ p ∈ [UnknownOpcodePolicy.skip, .stall, .halt],
    (unknown p).runState = .running ∧ (unknown p).fetch = some 0x8127 ∧
    decode 0x8127 = .error (.unknownOpcode 0x8127) ∧ (unknown p).params.unknownOpcode = p ∧
    ({ unknown p with st := 1 }).runState = .running ∧ ({ unknown p with st := 1 }).fetch = some 0x8127 ∧
    ({ unknown p with st := 1 }).st = 1 := by decide

/-- Seventeen calls deep. -/
def badCall : State := bytes (deep 16) 0x200 [0x23, 0x21]

/-- An Fx33 that passes 0xFFF. -/
def badBcd : State := faulting (bytes (at' 0xFFE) 0x200 [0xF5, 0x33])

/-- A key skip with an index above 0x0F. -/
def badKey : State := faulting (bytes (regs [(5, 0x10)]) 0x200 [0xE5, 0x9E])

/-- A pc no fetch accepts. -/
def badPc : State := faulting { State.reset with pc := 0xFFF }

/-- `s` runs, and its step answers `t`, halted for the cause `c`. -/
def HaltsFor (c : FaultCause) (s : State) : Prop :=
  ∃ t, s.runState = .running ∧ step s = .next t ∧ t.runState = .halted ∧ t.faultCause = c

theorem witness_HaltingStepIsPrecise : HaltsFor .rangeFault badPc ∧ HaltsFor .unknownOpcode (unknown .halt) :=
  ⟨⟨_, rfl, rfl, rfl, rfl⟩, ⟨_, rfl, rfl, rfl, rfl⟩⟩

theorem witness_EachCauseHasItsCondition :
    HaltsFor .unknownOpcode (unknown .halt) ∧ HaltsFor .stackOverflow badCall ∧ HaltsFor .stackUnderflow badRet ∧
    HaltsFor .rangeFault badBcd ∧ HaltsFor .rangeFault badKey ∧ HaltsFor .rangeFault badPc :=
  ⟨⟨_, rfl, rfl, rfl, rfl⟩, ⟨_, rfl, rfl, rfl, rfl⟩, ⟨_, rfl, rfl, rfl, rfl⟩, ⟨_, rfl, rfl, rfl, rfl⟩,
    ⟨_, rfl, rfl, rfl, rfl⟩, ⟨_, rfl, rfl, rfl, rfl⟩⟩

theorem witness_OnlyNamedInstructionsWrite : ∃ t, exec .cls State.reset = .next t ∧ ¬ MayWriteReg .cls vf ∧
    (∀ x, Instr.cls ≠ .bcd x ∧ Instr.cls ≠ .store x) ∧ (∀ nnn, Instr.cls ≠ .call nnn) ∧
    (∀ x nn, Instr.cls ≠ .rnd x nn) :=
  ⟨_, rfl, id, fun _ => ⟨(by rintro ⟨⟩), (by rintro ⟨⟩)⟩, (by rintro _ ⟨⟩), (by rintro _ _ ⟨⟩)⟩

theorem witness_StepLeavesHostsStateAlone :
    (∃ t, step { spin with drawFlag := true, soundFlag := true, unknownFlag := true } = .next t) ∧
    step { spin with runState := .halted } = .next { spin with runState := .halted } :=
  ⟨⟨_, rfl⟩, rfl⟩

theorem witness_LoadCopiesImage : (List.replicate 3584 (0xAB : Byte)).length ≤ 3584 ∧ ([] : List Byte).length ≤ 3584 :=
  ⟨List.length_replicate.le, Nat.zero_le _⟩

theorem witness_LoadResetsOrAnswersError : (List.replicate 3584 (0xAB : Byte)).length ≤ 3584 ∧
    3584 < (List.replicate 3585 (0xAB : Byte)).length :=
  ⟨List.length_replicate.le, by rw [List.length_replicate]; omega⟩

theorem witness_SetKeyWritesOneLatch : (0 : Fin 16) ≠ 15 ∧ ∃ t, step spin = .next t := ⟨by decide, _, rfl⟩

theorem witness_PortsReadAndClear : State.reset.runState ≠ .unloaded ∧
    ({ State.reset with runState := .halted }).runState ≠ .unloaded ∧ (64 ≤ 64 ∨ 32 ≤ 0) ∧ (64 ≤ 63 ∨ 32 ≤ 32) ∧
    ({ State.reset with runState := .unloaded }).runState = .unloaded := by decide

theorem witness_StepKeepsInvariant : spin.Inv ∧ ∃ t, step spin = .next t := by
  refine ⟨⟨by unfold State.MemCanonical; decide, ?_⟩, _, rfl⟩
  constructor <;> decide

/-- A loaded CORE that steps, and an unloaded one that is loaded. -/
theorem witness_TransactionsKeepInvariant :
    (∃ t, spin.Inv ∧ transact .step spin = .next (t, .unit)) ∧
    (∃ t, ({ spin with runState := .unloaded }).runState = .unloaded ∧
      transact (.load [0x12, 0x00]) { spin with runState := .unloaded } = .next (t, .ok)) :=
  ⟨⟨_, witness_StepKeepsInvariant.1, rfl⟩, ⟨_, rfl, transact_load_ok _ _ (by simp)⟩⟩

theorem witness_LoadedCoreMeetsInvariant : ∃ s, Reachable s ∧ s.runState ≠ .unloaded := by
  refine ⟨State.reset.resetKeeping.copyImage 0x200 [0x12, 0x00], ?_, by decide⟩
  exact .transaction _ _ _ _ (.powerOn { State.reset with runState := .unloaded } rfl)
    (transact_load_ok { State.reset with runState := .unloaded } [0x12, 0x00] (by simp))

end Sys2Proof.Tests
end

section
/-! PROOFS. The two shifts and their ignored `y` (30_encoding.md R71): which words decode to a shift, that every other
instruction has one word alone, and that a flag-and-result instruction reads its operands' registers alone. -/

namespace Sys2Proof

/-! ### The words of the shifts -/

/-- R69: family 8 is dispatched on `n`. -/
theorem decode_encodeXYN_8 (x y : RegIdx) (n : Nibble) :
    decode (encodeXYN 0x8 x y n) = decode8 (encodeXYN 0x8 x y n) := by
  simp [decode]

/-- R71: 8xy6 decodes to the right shift of Vx at every `y`. -/
theorem decode_word_shr (x y : RegIdx) : decode (encodeXYN 0x8 x y 0x6) = .ok (.shr x) := by
  rw [decode_encodeXYN_8]
  simp [decode8]

/-- R71: 8xyE decodes to the left shift of Vx at every `y`. -/
theorem decode_word_shl (x y : RegIdx) : decode (encodeXYN 0x8 x y 0xE) = .ok (.shl x) := by
  rw [decode_encodeXYN_8]
  simp [decode8]

/-- An instruction that is no shift has no word but its encoding. -/
theorem IsWordOf.encode_eq {w : Word} {i : Instr} (hw : IsWordOf w i) (hi : ∀ x, i ≠ .shr x ∧ i ≠ .shl x) :
    encode i = w := by
  obtain hw | ⟨x, _, hs, _⟩ | ⟨x, _, hs, _⟩ := hw
  · exact hw.symm
  · exact absurd hs (hi x).1
  · exact absurd hs (hi x).2

end Sys2Proof

namespace Sys2Proof.Machine

/-! ### What a flag-and-result instruction reads -/

@[simp] theorem State.writeFlagResult_pc (flag res : Byte → Byte → Byte) (x y : RegIdx) (s : State) :
    (s.writeFlagResult flag res x y).pc = s.pc := by
  rw [State.writeFlagResult_eq]

/-- A register that is no operand is not read: with another value in it, every register ends the same but that register
itself, and VF ends the same even where VF is that register. -/
theorem State.reg_writeFlagResult_setReg (flag res : Byte → Byte → Byte) (x y z : RegIdx) (b : Byte) (s : State)
    (hx : z ≠ x) (hy : z ≠ y) (k : RegIdx) (hk : k ≠ z ∨ k = vf) :
    ((s.setReg z b).writeFlagResult flag res x y).reg k = (s.writeFlagResult flag res x y).reg k := by
  unfold State.writeFlagResult
  rw [State.setReg_params]
  have hkz : k ≠ vf → k ≠ z := hk.resolve_right
  cases s.params.vfOrder <;> by_cases hkf : k = vf <;> simp [hx.symm, hy.symm, hkf, hkz]

/-! ### The statement -/

/-- Settles O2: the words of the two shifts decode at every `y`, every other word that decodes is an encoding, and Vy is no
operand of a shift. -/
theorem onlyShiftsIgnoreABit : Obligations.OnlyShiftsIgnoreABit := by
  refine ⟨fun x y => ⟨decode_word_shr x y, decode_word_shl x y⟩, fun w i hd hi => ?_, fun x y b s hyx => ?_⟩
  · obtain ⟨-, hw⟩ := decode_ok hd
    exact hw.encode_eq hi
  · have hreg flag res := s.reg_writeFlagResult_setReg flag res x x y b hyx hyx
    exact ⟨⟨_, _, rfl, rfl, by simp, hreg shrFlag shrResult⟩, ⟨_, _, rfl, rfl, by simp, hreg shlFlag shlResult⟩⟩

end Sys2Proof.Machine
end

section
/-! PROOFS. The jump and the skips on an immediate (41_control_flow.md R94, R97, R98): each has its row of the opcode map,
and writes nothing but pc. -/

namespace Sys2Proof.Machine

/-! ### Rows of the opcode map -/

/-- An instruction whose encoding decodes to it is at its own row of R66. -/
theorem RowIs.of_decode {i : Instr} (hrow : Laws.EncodingRow.Statement i) (hd : decode (encode i) = .ok i) :
    RowIs i i.row.1 i.row.2 :=
  ⟨eq_of_beq hrow.1, hd⟩

theorem rowIs_jp (nnn : Addr12) : RowIs (.jp nnn) 0xF000 0x1000 :=
  .of_decode (Laws.EncodingRow.jp nnn) (by simp [encode, decode])

theorem rowIs_seImm (x : RegIdx) (nn : Byte) : RowIs (.seImm x nn) 0xF000 0x3000 :=
  .of_decode (Laws.EncodingRow.seImm x nn) (by simp [encode, decode])

theorem rowIs_sneImm (x : RegIdx) (nn : Byte) : RowIs (.sneImm x nn) 0xF000 0x4000 :=
  .of_decode (Laws.EncodingRow.sneImm x nn) (by simp [encode, decode])

/-! ### pc -/

theorem toNat_zextAddr (nnn : Addr12) : (zextAddr nnn).toNat = nnn.toNat :=
  BitVec.toNat_setWidth_of_le (by decide)

/-- A jump writes nothing but pc. -/
theorem State.frame_setPc (s : State) (target : Word) : Frame {} s (s.setPc target) := by
  constructor <;> intros <;> rfl

@[simp] theorem State.skipIf_pc (s : State) (c : Bool) : (s.skipIf c).pc = s.pc + if c then 4 else 2 := by
  rw [State.skipIf_eq, State.setPc_pc]

/-! ### The statements -/

/-- Settles O14: the encoded word has the row of 1nnn, and the meaning is one write of pc. -/
theorem jpSetsPc : Obligations.JpSetsPc := fun nnn s =>
  ⟨rowIs_jp nnn, s.setPc (zextAddr nnn), rfl, toNat_zextAddr nnn, s.frame_setPc _⟩

/-- Settles O19: each skip is `State.skipIf` of its own comparison, which writes nothing but pc. -/
theorem skipsOnImmediate : Obligations.SkipsOnImmediate := by
  refine fun x nn s => ⟨⟨rowIs_seImm x nn, s.skipIf (s.reg x == nn), rfl, ?_, s.frame_skipIf _⟩,
    rowIs_sneImm x nn, s.skipIf (s.reg x != nn), rfl, ?_, s.frame_skipIf _⟩
  · simp only [State.skipIf_pc, beq_iff_eq]
  · simp only [State.skipIf_pc, bne_iff_ne]

end Sys2Proof.Machine
end

section
/-! PROOFS. Register loads, addition of an immediate and bitwise operations (42_alu.md R104 to R109): each has
its row of the opcode map, and is one write of Vx followed by advance 2. -/

namespace Sys2Proof.Machine

/-! ### Rows of the opcode map -/

theorem rowIs_ldImm (x : RegIdx) (nn : Byte) : RowIs (.ldImm x nn) 0xF000 0x6000 :=
  .of_decode (Laws.EncodingRow.ldImm x nn) (by simp [encode, decode])

theorem rowIs_addImm (x : RegIdx) (nn : Byte) : RowIs (.addImm x nn) 0xF000 0x7000 :=
  .of_decode (Laws.EncodingRow.addImm x nn) (by simp [encode, decode])

theorem rowIs_ldReg (x y : RegIdx) : RowIs (.ldReg x y) 0xF00F 0x8000 :=
  .of_decode (Laws.EncodingRow.ldReg x y) (by simp [encode, decode, decode8])

theorem rowIs_orReg (x y : RegIdx) : RowIs (.orReg x y) 0xF00F 0x8001 :=
  .of_decode (Laws.EncodingRow.orReg x y) (by simp [encode, decode, decode8])

theorem rowIs_andReg (x y : RegIdx) : RowIs (.andReg x y) 0xF00F 0x8002 :=
  .of_decode (Laws.EncodingRow.andReg x y) (by simp [encode, decode, decode8])

theorem rowIs_xorReg (x y : RegIdx) : RowIs (.xorReg x y) 0xF00F 0x8003 :=
  .of_decode (Laws.EncodingRow.xorReg x y) (by simp [encode, decode, decode8])

/-! ### One write of Vx -/

/-- The written register holds the written byte, whatever the advance. -/
theorem State.reg_advance_setReg_self (s : State) (x : RegIdx) (b : Byte) (d : Word) :
    ((s.setReg x b).advance d).reg x = b := by
  rw [State.advance_reg, State.reg_setReg, if_pos rfl]

/-! ### The statements -/

/-- Settles O6: the meaning is one write of nn to Vx. -/
theorem ldImmLoadsImmediate : Obligations.LdImmLoadsImmediate := fun x nn s =>
  ⟨rowIs_ldImm x nn, _, rfl, s.reg_advance_setReg_self x nn 2, rfl, s.frame_setReg x nn 2⟩

/-- Settles O7: the meaning is one write to Vx, and addition of bytes is addition modulo 256. -/
theorem addImmWrapsWithoutFlag : Obligations.AddImmWrapsWithoutFlag := by
  refine fun x nn s => ⟨rowIs_addImm x nn, _, rfl, ?_, rfl, s.frame_setReg x (s.reg x + nn) 2⟩
  rw [State.reg_advance_setReg_self, BitVec.toNat_add]

/-- Settles O8: the meaning is one write of Vy's byte to Vx. -/
theorem ldRegCopies : Obligations.LdRegCopies := fun x y s =>
  ⟨rowIs_ldReg x y, _, rfl, s.reg_advance_setReg_self x (s.reg y) 2, rfl, s.frame_setReg x (s.reg y) 2⟩

/-- Settles O9: each meaning is one write to Vx, of the byte whose bits are those of Vx and Vy combined. -/
theorem logicOpsAreBitwise : Obligations.LogicOpsAreBitwise := by
  refine fun x y s =>
    ⟨⟨rowIs_orReg x y, _, rfl, fun k => ?_, rfl, s.frame_setReg x (s.reg x ||| s.reg y) 2⟩,
      ⟨rowIs_andReg x y, _, rfl, fun k => ?_, rfl, s.frame_setReg x (s.reg x &&& s.reg y) 2⟩,
      ⟨rowIs_xorReg x y, _, rfl, fun k => ?_, rfl, s.frame_setReg x (s.reg x ^^^ s.reg y) 2⟩⟩
  · rw [State.reg_advance_setReg_self, BitVec.getLsbD_or]
  · rw [State.reg_advance_setReg_self, BitVec.getLsbD_and]
  · rw [State.reg_advance_setReg_self, BitVec.getLsbD_xor]

end Sys2Proof.Machine
end

section
/-! PROOFS. The load of the index register (43_index_memory.md R117): it has its row of the opcode map, and is one write
of I followed by advance 2. -/

namespace Sys2Proof.Machine

theorem rowIs_ldI (nnn : Addr12) : RowIs (.ldI nnn) 0xF000 0xA000 :=
  .of_decode (Laws.EncodingRow.ldI nnn) (by simp [encode, decode])

/-- A write of I writes only I beside pc. -/
theorem State.frame_setI (s : State) (a d : Word) : Frame { i := True } s ((s.setI a).advance d) := by
  constructor
  case i => exact fun hi => absurd trivial hi
  all_goals intros; rfl

/-- Settles O21: the meaning is one write of the zero-extended nnn to I. -/
theorem ldILoadsAddress : Obligations.LdILoadsAddress := fun nnn s =>
  ⟨rowIs_ldI nnn, (s.setI (zextAddr nnn)).advance 2, rfl, toNat_zextAddr nnn, rfl, s.frame_setI _ 2⟩

end Sys2Proof.Machine
end

section
/-! PROOFS. Clearing the screen (44_display.md R124): it has its row of the opcode map, and is one write of the framebuffer,
which sets draw_flag, followed by advance 2. -/

namespace Sys2Proof.Machine

theorem rowIs_cls : RowIs .cls 0xFFFF 0x00E0 :=
  .of_decode Laws.EncodingRow.cls (by decide)

/-- A write of the framebuffer writes only pixels and draw_flag beside pc. -/
theorem State.frame_setFb (s : State) (fb : Framebuffer) (d : Word) :
    Frame { pixels := fun _ => True, drawFlag := True } s ((s.setFb fb).advance d) := by
  constructor
  case pixels => exact fun _ hp => absurd trivial hp
  case drawFlag => exact fun hd => absurd trivial hd
  all_goals intros; rfl

/-- Settles O31: the meaning is one write of the clear framebuffer. -/
theorem clsClearsScreen : Obligations.ClsClearsScreen := fun s =>
  ⟨rowIs_cls, (s.setFb Framebuffer.clear).advance 2, rfl, Framebuffer.get_clear, rfl, rfl, s.frame_setFb _ 2⟩

end Sys2Proof.Machine
end

section
/-! PROOFS. The timer instructions (45_timers_keys.md R134 to R136): each has its row of the opcode map, and is one write
followed by advance 2; what the same step's tick then leaves is the tick's own rule (R132, R133) at the state written. -/

namespace Sys2Proof.Machine

/-! ### Rows of the opcode map -/

theorem rowIs_ldFromDT (x : RegIdx) : RowIs (.ldFromDT x) 0xF0FF 0xF007 :=
  .of_decode (Laws.EncodingRow.ldFromDT x) (by simp [encode, decode, decodeF])

theorem rowIs_ldDT (x : RegIdx) : RowIs (.ldDT x) 0xF0FF 0xF015 :=
  .of_decode (Laws.EncodingRow.ldDT x) (by simp [encode, decode, decodeF])

theorem rowIs_ldST (x : RegIdx) : RowIs (.ldST x) 0xF0FF 0xF018 :=
  .of_decode (Laws.EncodingRow.ldST x) (by simp [encode, decode, decodeF])

/-! ### Frames -/

/-- A write of DT writes only DT beside pc. -/
theorem State.frame_setDT (s : State) (b : Byte) (d : Word) : Frame { dt := True } s ((s.setDT b).advance d) := by
  constructor
  case dt => exact fun hdt => absurd trivial hdt
  all_goals intros; rfl

/-- A write of ST writes only ST beside pc: it raises no pulse. -/
theorem State.frame_setST (s : State) (b : Byte) (d : Word) : Frame { st := True } s ((s.setST b).advance d) := by
  constructor
  case st => exact fun hst => absurd trivial hst
  all_goals intros; rfl

/-! ### The tick -/

@[simp] theorem State.tick_reg (s : State) (k : RegIdx) : s.tick.reg k = s.reg k := by
  rw [State.tick_eq]
  rfl

theorem State.toNat_tick_dt (s : State) : s.tick.dt.toNat = s.dt.toNat - 1 := s.tick_spec.1

theorem State.toNat_tick_st (s : State) : s.tick.st.toNat = s.st.toNat - 1 := s.tick_spec.2.1

/-- R133: the tick that takes ST from 1 to 0 raises the pulse. -/
theorem State.tick_pulses {s : State} (h : s.st = 1) :
    s.tick.soundFlag = true ∧ s.tick.events = s.events ++ [.soundPulse] := by
  rw [State.tick_eq]
  exact ⟨if_pos h, if_pos h⟩

/-- R133: no other tick raises the pulse. -/
theorem State.tick_silent {s : State} (h : s.st ≠ 1) :
    s.tick.soundFlag = s.soundFlag ∧ s.tick.events = s.events := by
  rw [State.tick_eq]
  exact ⟨if_neg h, if_neg h⟩

/-! ### The statements -/

/-- Settles O36: the meaning is one write of DT to Vx, and the tick writes no register. -/
theorem ldFromDTReadsBeforeTick : Obligations.LdFromDTReadsBeforeTick := by
  intro x s
  have hreg := s.reg_advance_setReg_self x s.dt 2
  exact ⟨rowIs_ldFromDT x, (s.setReg x s.dt).advance 2, rfl, hreg, rfl, s.frame_setReg x s.dt 2,
    (State.tick_reg _ x).trans hreg, State.toNat_tick_dt _⟩

/-- Settles O37: the meaning is one write of Vx to DT, and the tick counts down from that value. -/
theorem ldDTIsTickedAtOnce : Obligations.LdDTIsTickedAtOnce := fun x s =>
  ⟨rowIs_ldDT x, (s.setDT (s.reg x)).advance 2, rfl, rfl, rfl, s.frame_setDT (s.reg x) 2, State.toNat_tick_dt _⟩

/-- Settles O38: the meaning is one write of Vx to ST, and the tick pulses exactly where ST is 1 before it. -/
theorem ldSTPulsesOnlyFromOne : Obligations.LdSTPulsesOnlyFromOne := fun x s =>
  ⟨rowIs_ldST x, (s.setST (s.reg x)).advance 2, rfl, rfl, rfl, s.frame_setST (s.reg x) 2, State.toNat_tick_st _,
    fun hone => State.tick_pulses hone, fun hne => State.tick_silent hne⟩

end Sys2Proof.Machine
end

section
/-! PROOFS. The load of an image that fits (70_reset_and_hazards.md R159, R160): the reset leaves memory at its reset
content, and the copy overwrites the addresses of the image alone. -/

namespace Sys2Proof.Machine

/-! ### The reset content of memory (R52) -/

theorem Memory.unlisted_of_lt (font : Font) {a : Nat} (h : a < 80) : Memory.unlisted font a = font[a] := dif_pos h

theorem Memory.unlisted_of_le (font : Font) {a : Nat} (h : 80 ≤ a) : Memory.unlisted font a = 0 := dif_neg h.not_gt

/-- After the reset of R159 memory reads as its reset content for the font the CORE keeps. -/
theorem State.readMem_resetKeeping (s : State) (a : Nat) :
    s.resetKeeping.readMem a = Memory.unlisted s.params.font a :=
  State.readMem_of_nil rfl a

/-! ### The copy (R160) -/

/-- The copy writes the image's bytes in order. -/
theorem State.readMem_copyImage_add (s : State) (a : Nat) (bs : List Byte) {j : Nat} (h : j < bs.length) :
    (s.copyImage a bs).readMem (a + j) = bs[j] := by
  rw [State.readMem_copyImage, if_pos (Nat.le_add_right a j), Nat.add_sub_cancel_left]
  exact List.getD_eq_getElem bs _ h

/-- The copy leaves every address below the image. -/
theorem State.readMem_copyImage_of_lt (s : State) {a a' : Nat} (bs : List Byte) (h : a' < a) :
    (s.copyImage a bs).readMem a' = s.readMem a' := by
  rw [State.readMem_copyImage, if_neg h.not_ge]

/-- The copy leaves every address past the image. -/
theorem State.readMem_copyImage_of_ge (s : State) {a a' : Nat} (bs : List Byte) (h : a + bs.length ≤ a') :
    (s.copyImage a bs).readMem a' = s.readMem a' := by
  rw [State.readMem_copyImage, if_pos (by omega)]
  exact List.getD_eq_default bs _ (by omega)

/-! ### The statement -/

/-- Settles O52: an address of the image holds its byte, every other address its reset content, and the copy of the
empty image is the reset itself, from which any other copy differs in memory alone. -/
theorem loadCopiesImage : Obligations.LoadCopiesImage := by
  intro s image hlen
  refine ⟨_, _, transact_load_ok s image hlen, transact_load_ok s [] (Nat.zero_le _),
    fun j hj => State.readMem_copyImage_add _ _ _ hj, fun a ha => ?font, fun a hlo hhi => ?below,
    fun a ha => ?past, ?frame⟩
  case font =>
    rw [State.readMem_copyImage_of_lt _ _ (by omega), State.readMem_resetKeeping, Memory.unlisted_of_lt _ ha]
  case below =>
    rw [State.readMem_copyImage_of_lt _ _ hhi, State.readMem_resetKeeping, Memory.unlisted_of_le _ hlo]
  case past =>
    rw [State.readMem_copyImage_of_ge _ _ ha, State.readMem_resetKeeping, Memory.unlisted_of_le _ (by omega)]
  case frame =>
    rw [State.copyImage_eq s.resetKeeping 0x200 image]
    rfl

end Sys2Proof.Machine
end

section
/-! PROOFS. Encoding (30_encoding.md): encoding then decoding is the identity (R80), the decoder agrees with the opcode map
as a table of masks (R66), and the words it rejects, family by family (R72). -/

namespace Sys2Proof

/-! ### Decoding what was encoded -/

/-- A sprite height below 16 is kept by its 4-bit field. -/
theorem decode_encode_drw (x y : RegIdx) {n : Nat} (hn : n < 16) :
    decode (encode (.drw x y n)) = .ok (.drw x y n) := by
  simp [encode, decode, Nat.mod_eq_of_lt hn]

/-- Settles O1: the fields of an encoding are the operands, so each family's dispatch finds the instruction again. -/
theorem decodeOfEncodeIsIdentity : Obligations.DecodeOfEncodeIsIdentity := by
  intro i hwf
  cases i with
  | cls | ret => rfl
  | jp nnn | call nnn | ldI nnn | jpV0 nnn => simp [encode, decode]
  | seImm x nn | sneImm x nn | ldImm x nn | addImm x nn | rnd x nn => simp [encode, decode]
  | seReg x y | sneReg x y => simp [encode, decode]
  | drw x y n => exact decode_encode_drw x y (of_decide_eq_true hwf)
  | ldReg x y | orReg x y | andReg x y | xorReg x y | addReg x y | subReg x y =>
    simp [encode, decode, decode8]
  | shr x => exact decode_word_shr x 0
  | shl x => exact decode_word_shl x 0
  | skp x | sknp x => simp [encode, decode]
  | ldFromDT x | ldDT x | ldST x | addI x | ldF x | bcd x | store x | load x =>
    simp [encode, decode, decodeF]

/-! ### The table of masks -/

/-- Every instruction's encoding selects its row, which is in the table. -/
theorem encodingRow : ∀ i : Instr, Laws.EncodingRow.Statement i
  | .cls => Laws.EncodingRow.cls
  | .ret => Laws.EncodingRow.ret
  | .jp nnn => Laws.EncodingRow.jp nnn
  | .call nnn => Laws.EncodingRow.call nnn
  | .seImm x nn => Laws.EncodingRow.seImm x nn
  | .sneImm x nn => Laws.EncodingRow.sneImm x nn
  | .seReg x y => Laws.EncodingRow.seReg x y
  | .ldImm x nn => Laws.EncodingRow.ldImm x nn
  | .addImm x nn => Laws.EncodingRow.addImm x nn
  | .ldReg x y => Laws.EncodingRow.ldReg x y
  | .orReg x y => Laws.EncodingRow.orReg x y
  | .andReg x y => Laws.EncodingRow.andReg x y
  | .xorReg x y => Laws.EncodingRow.xorReg x y
  | .addReg x y => Laws.EncodingRow.addReg x y
  | .subReg x y => Laws.EncodingRow.subReg x y
  | .shr x => Laws.EncodingRow.shr x
  | .shl x => Laws.EncodingRow.shl x
  | .sneReg x y => Laws.EncodingRow.sneReg x y
  | .ldI nnn => Laws.EncodingRow.ldI nnn
  | .jpV0 nnn => Laws.EncodingRow.jpV0 nnn
  | .rnd x nn => Laws.EncodingRow.rnd x nn
  | .drw x y n => Laws.EncodingRow.drw x y n
  | .skp x => Laws.EncodingRow.skp x
  | .sknp x => Laws.EncodingRow.sknp x
  | .ldFromDT x => Laws.EncodingRow.ldFromDT x
  | .ldDT x => Laws.EncodingRow.ldDT x
  | .ldST x => Laws.EncodingRow.ldST x
  | .addI x => Laws.EncodingRow.addI x
  | .ldF x => Laws.EncodingRow.ldF x
  | .bcd x => Laws.EncodingRow.bcd x
  | .store x => Laws.EncodingRow.store x
  | .load x => Laws.EncodingRow.load x

/-- Every word of an instruction selects its row: a shift's row does not look at `y` (R71). -/
theorem IsWordOf.selects_row {w : Word} {i : Instr} (hw : IsWordOf w i) : selects w i.row = true := by
  obtain rfl | ⟨x, y, rfl, rfl⟩ | ⟨x, y, rfl, rfl⟩ := hw
  · exact (encodingRow i).1
  · exact Laws.selects_F00F _ _ (by simp; decide)
  · exact Laws.selects_F00F _ _ (by simp; decide)

/-- A row that looks at the family alone fixes the family. -/
theorem family_of_selects {w m : Word} {f : Nibble} (hm : m = encodeXYN f 0 0 0) (h : selects w (0xF000, m) = true) :
    Opcode.family w = f := by
  have h := eq_of_beq h
  rw [and_F000, hm] at h
  simpa using congrArg Opcode.family h

/-- A row that looks at the family and `n` fixes both. -/
theorem family_n_of_selects {w m : Word} {f n : Nibble} (hm : m = encodeXYN f 0 0 n)
    (h : selects w (0xF00F, m) = true) : Opcode.family w = f ∧ Opcode.n w = n := by
  have h := eq_of_beq h
  rw [and_F00F, hm] at h
  exact ⟨by simpa using congrArg Opcode.family h, by simpa using congrArg Opcode.n h⟩

/-- A row that looks at the family and `nn` fixes both. -/
theorem family_nn_of_selects {w m : Word} {f : Nibble} {nn : Byte} (hm : m = encodeXNN f 0 nn)
    (h : selects w (0xF0FF, m) = true) : Opcode.family w = f ∧ Opcode.nn w = nn := by
  have h := eq_of_beq h
  rw [and_F0FF, hm] at h
  exact ⟨by simpa using congrArg Opcode.family h, by simpa using congrArg Opcode.nn h⟩

/-- A row that looks at every bit is selected by its own word alone. -/
theorem eq_of_selects {w m : Word} (h : selects w (0xFFFF, m) = true) : w = m := by
  have h := eq_of_beq h
  rwa [show (0xFFFF : Word) = BitVec.allOnes 16 from rfl, BitVec.and_allOnes] at h

/-- `w` decodes to an instruction of the row. -/
def DecodesAtRow (w : Word) (row : Word × Word) : Prop := ∃ i, decode w = .ok i ∧ i.row = row

theorem DecodesAtRow.of_family {w m : Word} {i : Instr} (f : Nibble) (hrow : i.row = (0xF000, m))
    (hm : m = encodeXYN f 0 0 0) (hd : Opcode.family w = f → decode w = .ok i) (h : selects w (0xF000, m) = true) :
    DecodesAtRow w (0xF000, m) :=
  ⟨i, hd (family_of_selects hm h), hrow⟩

theorem DecodesAtRow.of_family_n {w m : Word} {i : Instr} (f n : Nibble) (hrow : i.row = (0xF00F, m))
    (hm : m = encodeXYN f 0 0 n) (hd : Opcode.family w = f → Opcode.n w = n → decode w = .ok i)
    (h : selects w (0xF00F, m) = true) : DecodesAtRow w (0xF00F, m) :=
  have ⟨hf, hn⟩ := family_n_of_selects hm h
  ⟨i, hd hf hn, hrow⟩

theorem DecodesAtRow.of_family_nn {w m : Word} {i : Instr} (f : Nibble) (nn : Byte) (hrow : i.row = (0xF0FF, m))
    (hm : m = encodeXNN f 0 nn) (hd : Opcode.family w = f → Opcode.nn w = nn → decode w = .ok i)
    (h : selects w (0xF0FF, m) = true) : DecodesAtRow w (0xF0FF, m) :=
  have ⟨hf, hnn⟩ := family_nn_of_selects hm h
  ⟨i, hd hf hnn, hrow⟩

theorem DecodesAtRow.of_word {w m : Word} (hm : DecodesAtRow m (0xFFFF, m)) (h : selects w (0xFFFF, m) = true) :
    DecodesAtRow w (0xFFFF, m) :=
  eq_of_selects h ▸ hm

/-- A word that selects a row of the table decodes to an instruction of that row. -/
theorem decodesAtRow_of_selects (w : Word) : ∀ row ∈ opcodeTable, selects w row = true → DecodesAtRow w row := by
  simp only [opcodeTable, List.cons_append, List.nil_append, List.forall_mem_cons]
  exact ⟨.of_word ⟨.cls, rfl, rfl⟩, .of_word ⟨.ret, rfl, rfl⟩,
    .of_family (i := .jp (Opcode.nnn w)) 0x1 rfl rfl fun f => by simp [decode, f],
    .of_family (i := .call (Opcode.nnn w)) 0x2 rfl rfl fun f => by simp [decode, f],
    .of_family (i := .seImm (Opcode.x w) (Opcode.nn w)) 0x3 rfl rfl fun f => by simp [decode, f],
    .of_family (i := .sneImm (Opcode.x w) (Opcode.nn w)) 0x4 rfl rfl fun f => by simp [decode, f],
    .of_family_n (i := .seReg (Opcode.x w) (Opcode.y w)) 0x5 0x0 rfl rfl fun f n => by simp [decode, f, n],
    .of_family (i := .ldImm (Opcode.x w) (Opcode.nn w)) 0x6 rfl rfl fun f => by simp [decode, f],
    .of_family (i := .addImm (Opcode.x w) (Opcode.nn w)) 0x7 rfl rfl fun f => by simp [decode, f],
    .of_family_n (i := .ldReg (Opcode.x w) (Opcode.y w)) 0x8 0x0 rfl rfl fun f n => by simp [decode, decode8, f, n],
    .of_family_n (i := .orReg (Opcode.x w) (Opcode.y w)) 0x8 0x1 rfl rfl fun f n => by simp [decode, decode8, f, n],
    .of_family_n (i := .andReg (Opcode.x w) (Opcode.y w)) 0x8 0x2 rfl rfl fun f n => by simp [decode, decode8, f, n],
    .of_family_n (i := .xorReg (Opcode.x w) (Opcode.y w)) 0x8 0x3 rfl rfl fun f n => by simp [decode, decode8, f, n],
    .of_family_n (i := .addReg (Opcode.x w) (Opcode.y w)) 0x8 0x4 rfl rfl fun f n => by simp [decode, decode8, f, n],
    .of_family_n (i := .subReg (Opcode.x w) (Opcode.y w)) 0x8 0x5 rfl rfl fun f n => by simp [decode, decode8, f, n],
    .of_family_n (i := .shr (Opcode.x w)) 0x8 0x6 rfl rfl fun f n => by simp [decode, decode8, f, n],
    .of_family_n (i := .shl (Opcode.x w)) 0x8 0xE rfl rfl fun f n => by simp [decode, decode8, f, n],
    .of_family_n (i := .sneReg (Opcode.x w) (Opcode.y w)) 0x9 0x0 rfl rfl fun f n => by simp [decode, f, n],
    .of_family (i := .ldI (Opcode.nnn w)) 0xA rfl rfl fun f => by simp [decode, f],
    .of_family (i := .jpV0 (Opcode.nnn w)) 0xB rfl rfl fun f => by simp [decode, f],
    .of_family (i := .rnd (Opcode.x w) (Opcode.nn w)) 0xC rfl rfl fun f => by simp [decode, f],
    .of_family (i := .drw (Opcode.x w) (Opcode.y w) (Opcode.n w).toNat) 0xD rfl rfl fun f => by simp [decode, f],
    .of_family_nn (i := .skp (Opcode.x w)) 0xE 0x9E rfl rfl fun f nn => by simp [decode, f, nn],
    .of_family_nn (i := .sknp (Opcode.x w)) 0xE 0xA1 rfl rfl fun f nn => by simp [decode, f, nn],
    .of_family_nn (i := .ldFromDT (Opcode.x w)) 0xF 0x07 rfl rfl fun f nn => by simp [decode, decodeF, f, nn],
    .of_family_nn (i := .ldDT (Opcode.x w)) 0xF 0x15 rfl rfl fun f nn => by simp [decode, decodeF, f, nn],
    .of_family_nn (i := .ldST (Opcode.x w)) 0xF 0x18 rfl rfl fun f nn => by simp [decode, decodeF, f, nn],
    .of_family_nn (i := .addI (Opcode.x w)) 0xF 0x1E rfl rfl fun f nn => by simp [decode, decodeF, f, nn],
    .of_family_nn (i := .ldF (Opcode.x w)) 0xF 0x29 rfl rfl fun f nn => by simp [decode, decodeF, f, nn],
    .of_family_nn (i := .bcd (Opcode.x w)) 0xF 0x33 rfl rfl fun f nn => by simp [decode, decodeF, f, nn],
    .of_family_nn (i := .store (Opcode.x w)) 0xF 0x55 rfl rfl fun f nn => by simp [decode, decodeF, f, nn],
    .of_family_nn (i := .load (Opcode.x w)) 0xF 0x65 rfl rfl fun f nn => by simp [decode, decodeF, f, nn],
    fun _ h => nomatch h⟩

/-- Settles O3: a word of an instruction selects its row, and a word that selects a row decodes to an instruction of that
row, so the row is unique and a rejected word selects none. -/
theorem decodeAgreesWithTable : Obligations.DecodeAgreesWithTable := by
  refine ⟨fun w i hd => ?_, fun w r hr => ⟨decode_error hr, fun row hrow => ?_⟩⟩
  · obtain ⟨hwf, hword⟩ := decode_ok hd
    refine ⟨hwf, (encodingRow i).2, hword.selects_row, fun row hrow hsel => ?_⟩
    obtain ⟨j, hj, rfl⟩ := decodesAtRow_of_selects w row hrow hsel
    cases hd.symm.trans hj
    rfl
  · refine Bool.eq_false_iff.2 fun hsel => ?_
    obtain ⟨j, hj, -⟩ := decodesAtRow_of_selects w row hrow hsel
    cases hr.symm.trans hj

/-! ### The rejected words -/

theorem ite_ok_eq_error {c : Prop} [Decidable c] {i : Instr} {e : Except Reject Instr} {r : Reject} :
    (if c then .ok i else e) = Except.error r ↔ ¬ c ∧ e = .error r := by
  split <;> simp [*]

/-- Family 8 rejects by `n`. -/
theorem decode8_error_iff (w : Word) : decode8 w = .error (.unknownOpcode w) ↔
    w.toNat % 16 ∈ [0x7, 0x8, 0x9, 0xA, 0xB, 0xC, 0xD, 0xF] := by
  simp only [decode8, ite_ok_eq_error, n_eq_iff, List.mem_cons, List.not_mem_nil, BitVec.ofNat_eq_ofNat,
    BitVec.toNat_ofNat, and_true, or_false]
  omega

/-- Family F rejects by `nn`. -/
theorem decodeF_error_iff (w : Word) : decodeF w = .error (.unknownOpcode w) ↔
    w.toNat % 256 ∉ [0x07, 0x15, 0x18, 0x1E, 0x29, 0x33, 0x55, 0x65] := by
  simp [decodeF, ite_ok_eq_error, nn_eq_iff]

/-- Settles O4: the family is one of 16, and in each of them the dispatch is on the sub-op. -/
theorem unknownWordsByFamily : Obligations.UnknownWordsByFamily := by
  intro w
  have hlt : w.toNat / 4096 < 16 := by omega
  generalize hf : w.toNat / 4096 = f at hlt
  interval_cases f <;>
    simp [decode, BitVec.toNat_eq, toNat_family, toNat_n, toNat_nn, hf, ite_ok_eq_error, decode8_error_iff,
      decodeF_error_iff]

/-- Settles O5: each word is dispatched on its own nibbles. -/
theorem someWordsDecode : Obligations.SomeWordsDecode := by
  unfold Obligations.SomeWordsDecode
  decide

end Sys2Proof
end

section
/-! PROOFS. The flag-and-result instructions and the random byte (42_alu.md R103, R110 to R116): their result and flag where
no operand is VF, the table of outcomes where one is (R115), and the mask over one draw. -/

namespace Sys2Proof.Machine

/-! ### Result and flag where no operand is VF -/

theorem toNat_addResult (a b : Byte) : (addResult a b).toNat = (a.toNat + b.toNat) % 256 := BitVec.toNat_add a b

theorem toNat_subResult (a b : Byte) : (subResult a b).toNat = (a.toNat + 256 - b.toNat) % 256 := by
  have := b.isLt
  rw [subResult, BitVec.toNat_sub]
  omega

/-- Vx takes the result where neither operand is VF. -/
theorem State.reg_writeFlagResult_x (flag res : Byte → Byte → Byte) {x y : RegIdx} (s : State) (hx : x ≠ vf)
    (hy : y ≠ vf) : (s.writeFlagResult flag res x y).reg x = res (s.reg x) (s.reg y) := by
  rw [State.reg_writeFlagResult _ _ _ _ _ hx hy, if_pos rfl]

/-- VF takes the flag where neither operand is VF. -/
theorem State.reg_writeFlagResult_vf (flag res : Byte → Byte → Byte) {x y : RegIdx} (s : State) (hx : x ≠ vf)
    (hy : y ≠ vf) : (s.writeFlagResult flag res x y).reg vf = flag (s.reg x) (s.reg y) := by
  rw [State.reg_writeFlagResult _ _ _ _ _ hx hy, if_neg hx.symm, if_pos rfl]

/-- Settles O10: both write their result and their flag as numbers. -/
theorem addSubResultAndFlag : Obligations.AddSubResultAndFlag := by
  refine fun x y s => ⟨⟨_, rfl, by simp, s.frame_writeFlagResult .., fun hx hy => ⟨?_, ?_⟩⟩,
    ⟨_, rfl, by simp, s.frame_writeFlagResult .., fun hx hy => ⟨?_, ?_⟩⟩⟩
  · rw [State.advance_reg, s.reg_writeFlagResult_x _ _ hx hy, toNat_addResult]
  · rw [State.advance_reg, s.reg_writeFlagResult_vf _ _ hx hy, toNat_carryFlag]
  · rw [State.advance_reg, s.reg_writeFlagResult_x _ _ hx hy, toNat_subResult]
  · rw [State.advance_reg, s.reg_writeFlagResult_vf _ _ hx hy, toNat_noBorrowFlag]

/-- Settles O11: both write their result and the bit shifted out as numbers. -/
theorem shiftsResultAndFlag : Obligations.ShiftsResultAndFlag := by
  refine fun x s => ⟨⟨_, rfl, by simp, s.frame_writeFlagResult .., fun hx => ⟨?_, ?_⟩⟩,
    ⟨_, rfl, by simp, s.frame_writeFlagResult .., fun hx => ⟨?_, ?_⟩⟩⟩
  · rw [State.advance_reg, s.reg_writeFlagResult_x _ _ hx hx, toNat_shrResult]
  · rw [State.advance_reg, s.reg_writeFlagResult_vf _ _ hx hx, toNat_shrFlag]
  · rw [State.advance_reg, s.reg_writeFlagResult_x _ _ hx hx, toNat_shlResult]
  · rw [State.advance_reg, s.reg_writeFlagResult_vf _ _ hx hx, toNat_shlFlag]

/-! ### The outcomes where an operand is VF, for each write order (D9) -/

/-- VF where it is the first operand: the result is written to it first, last, or last and from the flag. -/
theorem State.reg_writeFlagResult_vf_first (flag res : Byte → Byte → Byte) (y : RegIdx) (s : State) :
    (s.writeFlagResult flag res vf y).reg vf =
      match s.params.vfOrder with
      | .latchedFlagFirst => res (s.reg vf) (s.reg y)
      | .latchedFlagLast => flag (s.reg vf) (s.reg y)
      | .sequential => res (flag (s.reg vf) (s.reg y)) (if y = vf then flag (s.reg vf) (s.reg y) else s.reg y) := by
  unfold State.writeFlagResult
  cases s.params.vfOrder <;> simp

/-- VF where another register takes the result: the flag, in every order. -/
theorem State.reg_writeFlagResult_vf_of_ne (flag res : Byte → Byte → Byte) {x : RegIdx} (y : RegIdx) (s : State)
    (hx : x ≠ vf) : (s.writeFlagResult flag res x y).reg vf = flag (s.reg x) (s.reg y) := by
  unfold State.writeFlagResult
  cases s.params.vfOrder <;> simp [hx.symm]

/-- Vx where VF is the second operand: in sequence the result is computed from the flag just written. -/
theorem State.reg_writeFlagResult_x_vf (flag res : Byte → Byte → Byte) {x : RegIdx} (s : State) (hx : x ≠ vf) :
    (s.writeFlagResult flag res x vf).reg x =
      match s.params.vfOrder with
      | .latchedFlagFirst => res (s.reg x) (s.reg vf)
      | .latchedFlagLast => res (s.reg x) (s.reg vf)
      | .sequential => res (s.reg x) (flag (s.reg x) (s.reg vf)) := by
  unfold State.writeFlagResult
  cases s.params.vfOrder <;> simp [hx]

/-- A byte added to itself carries exactly from 0x80 on. -/
theorem toNat_carryFlag_self (a : Byte) : (carryFlag a a).toNat = if a.toNat ≥ 0x80 then 1 else 0 := by
  rw [toNat_carryFlag]
  exact if_congr (by omega) rfl rfl

/-- Settles O12: each row of R115's table is the write order's law at the flag and result as numbers. -/
theorem vfOperandOutcomes : Obligations.VfOperandOutcomes := by
  intro x y s hx hy
  refine ⟨⟨_, rfl, ?_⟩, ⟨_, rfl, ?_, ?_⟩, ⟨_, rfl, ?_⟩, ⟨_, rfl, ?_⟩, ⟨_, rfl, ?_, ?_⟩, ⟨_, rfl, ?_⟩, ⟨_, rfl, ?_⟩,
    ⟨_, rfl, ?_⟩⟩
  all_goals simp only [State.advance_reg, State.reg_writeFlagResult_vf_first, State.reg_writeFlagResult_x_vf _ _ _ hx,
    State.reg_writeFlagResult_vf_of_ne _ _ _ _ hx, if_neg hy]
  · cases s.params.vfOrder <;> simp [toNat_addResult, toNat_carryFlag]
  · exact toNat_carryFlag _ _
  · cases s.params.vfOrder <;> simp [toNat_addResult, toNat_carryFlag]
  · cases s.params.vfOrder with
    | latchedFlagFirst => exact toNat_addResult _ _
    | latchedFlagLast => exact toNat_carryFlag_self _
    | sequential =>
      simp only [if_true, toNat_addResult, toNat_carryFlag_self]
      split <;> rfl
  · cases s.params.vfOrder <;> simp [toNat_subResult, toNat_noBorrowFlag]
  · exact toNat_noBorrowFlag _ _
  · cases s.params.vfOrder <;> simp [toNat_subResult, toNat_noBorrowFlag]
  · cases s.params.vfOrder <;> simp [toNat_subResult, toNat_noBorrowFlag]
  · cases s.params.vfOrder <;> simp [toNat_shrResult, toNat_shrFlag]
  · cases s.params.vfOrder with
    | latchedFlagFirst => exact toNat_shlResult _ _
    | latchedFlagLast => exact toNat_shlFlag _ _
    | sequential =>
      have hlt := (s.reg vf).isLt
      simp only [toNat_shlResult, toNat_shlFlag]
      omega

/-! ### The random byte -/

/-- Settles O13: the meaning is one draw and one write of the drawn byte under the mask. -/
theorem rndMasksOneDraw : Obligations.RndMasksOneDraw := by
  intro x nn s
  have hreg := State.reg_advance_setReg_self s.drawRandom.2 x (s.drawRandom.1 &&& nn) 2
  refine ⟨_, rfl, fun k => ?_, fun h0 => ?_, fun hFF => ?_, rfl, rfl, ?_⟩
  · rw [hreg, BitVec.getLsbD_and]; rfl
  · rw [hreg, h0]; exact BitVec.and_zero
  · rw [hreg, hFF]; exact BitVec.and_allOnes
  · constructor <;> simp +contextual

end Sys2Proof.Machine
end

section
/-! PROOFS. Control transfer (41_control_flow.md): the jump by V0 (R96), call and return with their two faults (R93, R95,
R146, R147), and the skips on registers (R99, R100). -/

namespace Sys2Proof.Machine

/-! ### Jump by V0 -/

theorem toNat_zextByte (b : Byte) : (zextByte b).toNat = b.toNat :=
  BitVec.toNat_setWidth_of_le (by decide)

/-- Settles O15: a 12-bit and an 8-bit number do not overflow 16 bits. -/
theorem jpV0AddsV0 : Obligations.JpV0AddsV0 := by
  intro nnn s
  have hpc : (zextAddr nnn + zextByte (s.reg 0)).toNat = nnn.toNat + (s.reg 0).toNat := by
    rw [BitVec.toNat_add, toNat_zextAddr, toNat_zextByte]
    omega
  refine ⟨_, rfl, hpc, ?_, s.frame_setPc _⟩
  rw [State.setPc_pc, hpc]
  omega

/-! ### Call and return -/

/-- Where no condition of a fault is met, an instruction writes only what `Instr.writes` names beside pc. -/
theorem frame_of_exec (i : Instr) {s t : State} (h : exec i s = .next t) (hn : ∀ c, ¬ Instr.faultsWith s i c) :
    Frame (Instr.writes s i) s t := by
  obtain ⟨u, hu, hframe, -⟩ | ⟨c, hc, -⟩ := exec_spec i s
  · cases hu.symm.trans h
    exact hframe
  · exact absurd hc (hn c)

/-- A call that does not overflow writes sp and the entry it pushes beside pc. -/
theorem State.frame_called (s : State) (nnn : Addr12) (h : s.sp.val < 16) :
    Frame { sp := True, stack := fun k => k.val = s.sp.val } s (s.called nnn h) :=
  frame_of_exec (.call nnn) (execCall_of_lt nnn h) fun c => by
    cases c <;> simp [Instr.faultsWith, State.OutOfRange, h.ne]

/-- A return that does not underflow writes sp beside pc. -/
theorem State.frame_returned (s : State) (h : 0 < s.sp.val) : Frame { sp := True } s (s.returned h) :=
  frame_of_exec .ret (execRet_of_pos h) fun c => by cases c <;> simp [Instr.faultsWith, State.OutOfRange, h.ne']

/-- Settles O16: the two paths of a call. -/
theorem callPushesOrOverflows : Obligations.CallPushesOrOverflows := fun nnn s =>
  ⟨fun h => ⟨s.called nnn h, execCall_of_lt nnn h, (s.stackAt_called nnn h _).trans (if_pos rfl), rfl,
      toNat_zextAddr nnn, s.frame_called nnn h⟩,
    fun h => ⟨_, execCall_of_full nnn h, s.sameMachine_raiseFault _ _, s.faultRecorded_raiseFault _ _⟩⟩

/-- Settles O17: the two paths of a return. -/
theorem retPopsOrUnderflows : Obligations.RetPopsOrUnderflows := fun s =>
  ⟨fun h => ⟨s.returned h, execRet_of_pos h, rfl, rfl, s.frame_returned h⟩,
    fun h => ⟨_, execRet_of_zero h, s.sameMachine_raiseFault _ _, s.faultRecorded_raiseFault _ _⟩⟩

/-- Settles O18: the return pops the entry the call pushed, and sp is one up and one down. -/
theorem returnUndoesCall : Obligations.ReturnUndoesCall := by
  intro nnn s h
  have hpos : 0 < (s.called nnn h).sp.val := Nat.succ_pos _
  refine ⟨s.called nnn h, (s.called nnn h).returned hpos, execCall_of_lt nnn h, execRet_of_pos hpos, ?_, ?_⟩
  · exact congrArg (· + 2) ((s.stackAt_called nnn h _).trans (if_pos rfl))
  · constructor
    case stack => exact fun k hk => (s.stackAt_called nnn h k).trans (if_neg hk)
    all_goals intros; rfl

/-! ### Skips on registers -/

/-- Settles O20: each skip is `State.skipIf` of its own comparison, and families 5 and 9 decode for N = 0 alone. -/
theorem skipsOnRegisters : Obligations.SkipsOnRegisters := by
  refine fun x y s => ⟨⟨_, rfl, ?_, s.frame_skipIf _⟩, ⟨_, rfl, ?_, s.frame_skipIf _⟩, fun n hn => ⟨?_, ?_⟩⟩
  · simp only [State.skipIf_pc, beq_iff_eq]
  · simp only [State.skipIf_pc, bne_iff_ne]
  · simpa [decode] using hn
  · simpa [decode] using hn

end Sys2Proof.Machine
end

section
/-! PROOFS. The index register and the I-based accesses (43_index_memory.md): the sums and the glyph address written to I, the
addresses of an access (20_memory.md R48, R49), what the three of them store and load there, and the fault of a refused
address or key index (R148). -/

namespace Sys2Proof.Machine

/-! ### I -/

/-- Settles O22: I takes a sum of words. -/
theorem addIWrapsAt16Bits : Obligations.AddIWrapsAt16Bits := by
  refine fun x s => ⟨_, rfl, ?_, rfl, s.frame_setI _ 2⟩
  rw [State.advance_i, State.setI_i, BitVec.toNat_add, toNat_zextByte]

/-- The glyph address as a number: five bytes a glyph, no wrap. -/
theorem State.toNat_glyphAddr (s : State) (b : Byte) :
    (s.glyphAddr b).toNat = (match s.params.fontIndex with
      | .raw => b.toNat * 5
      | .lowNibble => b.toNat % 16 * 5) := by
  have hlow : (b &&& 0x0F).toNat = b.toNat % 16 := Nat.and_two_pow_sub_one_eq_mod b.toNat 4
  have hmul : ∀ c : Byte, (zextByte c * 5).toNat = c.toNat * 5 := fun c => by
    rw [BitVec.toNat_mul, toNat_zextByte]
    exact Nat.mod_eq_of_lt (by have := c.isLt; simp; omega)
  unfold State.glyphAddr
  cases s.params.fontIndex with
  | raw => exact hmul b
  | lowNibble => exact (hmul _).trans (congrArg (· * 5) hlow)

/-- Settles O23: the meaning is one write of the glyph address to I. -/
theorem ldFPointsAtGlyph : Obligations.LdFPointsAtGlyph := fun x s =>
  ⟨(s.setI (s.glyphAddr (s.reg x))).advance 2, rfl, s.toNat_glyphAddr (s.reg x), rfl, s.frame_setI _ 2⟩

/-! ### The addresses of an access -/

theorem State.indexAddrs_eq_none {s : State} {n : Nat} :
    s.indexAddrs n = none ↔ s.params.oob = .fault ∧ 0 < n ∧ 4096 < s.indexBase + n := by
  rw [State.indexAddrs_spec]
  split <;> simp [*]

/-- The address at place `k` of an access. -/
theorem State.indexAddrs_getElem? {s : State} {n k a : Nat} {as : List Nat} (h : s.indexAddrs n = some as)
    (hk : as[k]? = some a) : a = (s.indexBase + k) % 4096 := by
  rw [State.indexAddrs_spec] at h
  split at h
  · cases h
  · cases h
    obtain ⟨hlen, hget⟩ := List.getElem?_eq_some_iff.1 hk
    simpa using hget.symm

/-- The addresses of an access depend on I and the policy alone. -/
theorem State.indexAddrs_congr {s t : State} (hi : t.i = s.i) (hp : t.params = s.params) (n : Nat) :
    t.indexAddrs n = s.indexAddrs n := by
  rw [State.indexAddrs_spec, State.indexAddrs_spec, State.indexBase, State.indexBase, hi, hp]

/-- Settles O24: an access of n bytes is the run of n candidates from I mod 4096. -/
theorem indexAddressesFollowAddr : Obligations.IndexAddressesFollowAddr := by
  intro s n
  rw [← s.indexBase_eq]
  refine ⟨?_, fun as h => ⟨State.indexAddrs_length h, fun k a hk => State.indexAddrs_getElem? h hk⟩⟩
  rw [State.indexAddrs_eq_none]
  exact and_congr_right fun _ => and_congr_right fun _ => by omega

/-! ### Stores -/

/-- A block write to the addresses of an access leaves byte `k` at the address at place `k`. -/
theorem State.readMem_writeAll_of_getElem? {s : State} {n k a : Nat} {as : List Nat} (bs : List Byte) (hn : n ≤ 4096)
    (h : s.indexAddrs n = some as) (hk : as[k]? = some a) (hb : k < bs.length) :
    (s.writeAll as bs).readMem a = bs[k] := by
  obtain ⟨hlen, rfl⟩ := List.getElem?_eq_some_iff.1 hk
  exact s.readMem_writeAll as bs (State.indexAddrs_nodup hn h) k hlen hb

/-- Settles O25: the three digits go to the three addresses in order. -/
theorem bcdStoresDigits : Obligations.BcdStoresDigits := by
  intro x s as h
  obtain ⟨a0, a1, a2, rfl⟩ := List.length_eq_three.1 (State.indexAddrs_length h)
  have hdigit (k a : Nat) (hk : [a0, a1, a2][k]? = some a) (hb : k < 3) :=
    State.readMem_writeAll_of_getElem? (bcdDigits (s.reg x)) (by decide) h hk hb
  refine ⟨_, a0, a1, a2, execBcd_of_some h, rfl, ?_, ?_, ?_, ?_, s.frame_writeAll _ _ 2⟩
  · rw [State.advance_readMem, hdigit 0 a0 rfl (by decide)]; rfl
  · rw [State.advance_readMem, hdigit 1 a1 rfl (by decide)]; rfl
  · rw [State.advance_readMem, hdigit 2 a2 rfl (by decide)]; rfl
  · rw [s.writeAll_eq]; rfl

/-- I after a block transfer, as a number. -/
theorem State.toNat_bumpI_i (s : State) (x : RegIdx) : (s.bumpI x).i.toNat = (s.i.toNat + x.val + 1) % 65536 := by
  rw [State.bumpI_i, BitVec.toNat_add, BitVec.toNat_ofNat]
  omega

/-- A block write followed by the advance of I writes the bytes at its addresses and I beside pc. -/
theorem State.frame_writeAll_bumpI (s : State) (as : List Nat) (bs : List Byte) (x : RegIdx) (d : Word) :
    Frame { mem := (· ∈ as), i := True } s (((s.writeAll as bs).bumpI x).advance d) := by
  obtain ⟨⟩ := s.frame_writeAll as bs d
  constructor
  case i => exact fun hi => absurd trivial hi
  all_goals assumption

/-- Settles O26: place k of the registers stored is Vk. -/
theorem storeWritesV0ToVx : Obligations.StoreWritesV0ToVx := by
  intro x s as h
  have hregs := s.regsFrom_length 0 (x.val + 1) (by omega)
  refine ⟨_, execStore_of_some h, State.indexAddrs_length h, fun k a hk => ?_, ?_, ?_, s.frame_writeAll_bumpI ..⟩
  · have hlt : k.val < as.length := (List.getElem?_eq_some_iff.1 hk).1
    rw [State.indexAddrs_length h] at hlt
    rw [State.advance_readMem, State.bumpI_readMem,
      State.readMem_writeAll_of_getElem? _ (by omega) h hk (hregs.symm ▸ hlt), s.regsFrom_getElem 0 _ _ (by omega)]
    simp
  · rw [State.advance_i, State.toNat_bumpI_i, s.writeAll_eq]
  · rw [State.advance_pc, State.bumpI_pc, s.writeAll_eq]

/-! ### Loads -/

/-- A load whose addresses are not refused writes V0 to Vx and I beside pc. -/
theorem frame_of_execLoad {x : RegIdx} {s t : State} {as : List Nat} (h : s.indexAddrs (x.val + 1) = some as)
    (ht : exec (.load x) s = .next t) : Frame { regs := (· ≤ x), i := True } s t :=
  frame_of_exec (.load x) ht fun c => by cases c <;> simp [Instr.faultsWith, State.OutOfRange, h]

/-- Settles O27: place k of the bytes loaded goes to Vk. -/
theorem loadReadsV0ToVx : Obligations.LoadReadsV0ToVx := by
  intro x s as h
  refine ⟨_, execLoad_of_some h, State.indexAddrs_length h, fun k a hk => ?_, ?_, ?_,
    frame_of_execLoad h (execLoad_of_some h)⟩
  · rw [State.advance_reg, State.bumpI_reg, State.reg_setRegsFrom, s.readAll_eq_map]
    simp [hk]
  · rw [State.advance_i, State.toNat_bumpI_i, s.setRegsFrom_eq]
  · rw [State.advance_pc, State.bumpI_pc, s.setRegsFrom_eq]

/-- Settles O28: the load reads back what `storeWritesV0ToVx` says was stored, and neither writes a register above Vx. -/
theorem loadUndoesStore : Obligations.LoadUndoesStore := by
  intro x nnn s as hi h
  obtain ⟨t, ht, hlen, hstored, hti, -, hts⟩ := storeWritesV0ToVx x s as h
  have hui : zextAddr nnn = s.i := BitVec.eq_of_toNat_eq ((toNat_zextAddr nnn).trans hi.symm)
  have hut := t.frame_setI (zextAddr nnn) 2
  have hu : ((t.setI (zextAddr nnn)).advance 2).indexAddrs (x.val + 1) = some as :=
    (State.indexAddrs_congr hui (hut.params.trans hts.params) _).trans h
  obtain ⟨w, hw, -, hloaded, hwi, -, hwu⟩ := loadReadsV0ToVx x _ as hu
  have hbump {j : Word} (hj : j.toNat = (s.i.toNat + x.val + 1) % 65536) : j = s.i + BitVec.ofNat 16 (x.val + 1) :=
    BitVec.eq_of_toNat_eq (hj.trans (s.toNat_bumpI_i x).symm)
  refine ⟨t, _, w, ht, rfl, hw, fun k => ?_, hbump hti, hbump (hui ▸ hwi)⟩
  rcases le_or_gt k x with hk | hk
  · have hlt : k.val < as.length := by
      rw [hlen]
      exact Nat.lt_succ_of_le hk
    have hget := List.getElem?_eq_getElem hlt
    calc w.reg k = ((t.setI (zextAddr nnn)).advance 2).readMem as[k.val] := hloaded k _ hget
      _ = t.readMem as[k.val] := rfl
      _ = s.reg k := hstored k _ hget
  · calc w.reg k = t.reg k := hwu.regs k (not_le.2 hk)
      _ = s.reg k := hts.regs k id

/-- Settles O29: the fetch reads memory as the store left it. -/
theorem storedBytesAreFetched : Obligations.StoredBytesAreFetched := by
  intro x k s t as opc h ht hf
  obtain ⟨t', ht', -, hstored, -⟩ := storeWritesV0ToVx x s as h
  cases ht.symm.trans ht'
  have hopc := congrArg BitVec.toNat (State.fetch_some hf)
  rw [toNat_wordOfBytes] at hopc
  constructor <;> intro hk <;> rw [hopc, hstored k _ hk] <;> omega

/-! ### Refused addresses and key indexes -/

/-- A fault that was raised is precise. -/
theorem exists_preciseFault {i : Instr} {s : State} {c : FaultCause}
    (h : exec i s = .next (s.raiseFault c (encode i))) :
    ∃ t, exec i s = .next t ∧ SameMachine s t ∧ FaultRecorded c (encode i) s t :=
  ⟨_, h, s.sameMachine_raiseFault _ _, s.faultRecorded_raiseFault _ _⟩

/-- Settles O30: each of the six raises its fault on the state before any write. -/
theorem outOfRangeIsPreciseFault : Obligations.OutOfRangeIsPreciseFault := by
  refine fun x y n s => ⟨fun h => exists_preciseFault (execBcd_of_none h),
    fun h => exists_preciseFault (execStore_of_none h), fun h => exists_preciseFault (execLoad_of_none h),
    fun h => exists_preciseFault (execDrw_of_none h), fun hp hv => ?_⟩
  have hkey : s.keyIdx (s.reg x) = none := State.keyIdx_none.2 ⟨hp, hv⟩
  exact ⟨exists_preciseFault (execSkp_of_none hkey), exists_preciseFault (execSknp_of_none hkey)⟩

end Sys2Proof.Machine
end

section
/-! PROOFS. Drawing a sprite (44_display.md R126 to R131): the pixels it flips and the collision it reports, a sprite of no
rows, a second draw of the same sprite, and a draw on a cleared screen. -/

namespace Sys2Proof.Machine

/-! ### One draw -/

/-- A draw of at most 32 rows flips exactly the pixels of the sprite. -/
theorem State.pixel_drawSprite (s : State) (x y : RegIdx) {rows : List Byte} (h : rows.length ≤ 32) (p : Pixel) :
    (s.drawSprite x y rows).pixel p =
      if p ∈ spritePixels (s.originX x) (s.originY y) rows then !s.pixel p else s.pixel p := by
  rw [State.drawSprite_eq]
  exact Framebuffer.get_blit _ _ _ (nodup_spritePixels _ _ _ h) p

/-- VF after a draw of at most 32 rows says whether a pixel of the sprite was set. -/
theorem State.exists_reg_vf_drawSprite (s : State) (x y : RegIdx) {rows : List Byte} (h : rows.length ≤ 32) :
    ∃ hit, (s.drawSprite x y rows).reg vf = flagByte hit ∧
      (hit = true ↔ ∃ p ∈ spritePixels (s.originX x) (s.originY y) rows, s.pixel p = true) := by
  refine ⟨_, (State.reg_setReg _ _ _ _).trans (if_pos rfl), ?_⟩
  rw [Framebuffer.hit_blit _ _ _ (nodup_spritePixels _ _ _ h)]
  simp [State.pixel]

/-- A draw whose addresses are not refused writes VF, pixels and draw_flag beside pc. -/
theorem frame_of_execDrw {x y : RegIdx} {n : Nat} {s t : State} {as : List Nat} (h : s.indexAddrs n = some as)
    (ht : exec (.drw x y n) s = .next t) :
    Frame { regs := (· = vf), pixels := fun _ => True, drawFlag := True } s t :=
  frame_of_exec (.drw x y n) ht fun c => by
    cases c <;> simp +contextual [Instr.faultsWith, State.OutOfRange, h]

/-- Settles O32: the rasterizer's pixels are the ones `State.SpriteLit` names, and they are distinct. -/
theorem drwXorsSpriteAndDetectsCollision : Obligations.DrwXorsSpriteAndDetectsCollision := by
  intro x y n s as hn h
  have hlen := State.indexAddrs_length h
  have hrows : (s.readAll as).length ≤ 32 := by
    rw [s.readAll_eq_map, List.length_map, hlen]
    omega
  have hpixel := s.pixel_drawSprite x y hrows
  obtain ⟨hit, hvf, hhit⟩ := s.exists_reg_vf_drawSprite x y hrows
  have hlit := mem_spritePixels_iff s x y as
  simp only [hlit] at hhit
  refine ⟨_, execDrw_of_some h, hlen, fun p hp => (hpixel p).trans (if_pos ((hlit p).2 hp)), fun hset => ?_,
    fun hclear => ?_, rfl, rfl, ?_⟩
  · rw [State.advance_reg, hvf, hhit.2 hset]
    rfl
  · have hmiss : hit = false := by
      refine Bool.eq_false_iff.2 fun hit => ?_
      obtain ⟨p, hp, hset⟩ := hhit.1 hit
      exact absurd ((hclear p hp).symm.trans hset) Bool.false_ne_true
    rw [State.advance_reg, hvf, hmiss]
    rfl
  · obtain ⟨⟩ := frame_of_execDrw h (execDrw_of_some h)
    constructor
    case pixels => exact fun p hp => (hpixel p).trans (if_neg (mt (hlit p).1 hp))
    all_goals assumption

/-- Settles O33: a sprite of no rows lights no pixel. -/
theorem drwOfNoRowsResetsVf : Obligations.DrwOfNoRowsResetsVf := by
  intro x y s
  have hdark (p : Pixel) : ¬ s.SpriteLit x y [] p := by simp [State.SpriteLit]
  obtain ⟨t, ht, -, -, -, hvf, hdraw, hpc, hframe⟩ := drwXorsSpriteAndDetectsCollision x y 0 s [] (by decide) rfl
  refine ⟨t, ht, hvf fun p hp => absurd hp (hdark p), hdraw, hpc, ?_⟩
  have hpixels (p : Pixel) (_ : ¬ False) : t.pixel p = s.pixel p := hframe.pixels p (hdark p)
  obtain ⟨⟩ := hframe
  constructor
  all_goals assumption

/-! ### Two draws -/

/-- The pixels a draw lights depend on the origin and the row bytes alone (R131). -/
theorem State.spriteLit_congr {s s' : State} {x y x' y' : RegIdx} {as as' : List Nat}
    (hx : (s'.reg x').toNat % 64 = (s.reg x).toNat % 64) (hy : (s'.reg y').toNat % 32 = (s.reg y).toNat % 32)
    (hrows : as'.map s'.readMem = as.map s.readMem) (p : Pixel) : s'.SpriteLit x' y' as' p ↔ s.SpriteLit x y as p := by
  rw [← mem_spritePixels_iff, ← mem_spritePixels_iff, s'.readAll_eq_map, s.readAll_eq_map, hrows, State.originX, hx,
    State.originY, hy]
  rfl

/-- A sprite with a row that is not zero lights a pixel. -/
theorem State.exists_spriteLit {s : State} {as : List Nat} {a : Nat} (x y : RegIdx) (ha : a ∈ as)
    (hrow : s.readMem a ≠ 0) : ∃ p, s.SpriteLit x y as p := by
  obtain ⟨r, hr⟩ := List.getElem?_of_mem ha
  obtain ⟨k, hk, hbit⟩ : ∃ k < 8, (s.readMem a).getLsbD k = true := by
    by_contra! hall
    exact hrow (BitVec.eq_of_getLsbD_eq fun k hk => by simpa using hall k hk)
  exact ⟨spritePixel _ _ r (7 - k), r, 7 - k, a, hr, by omega, by rwa [show 7 - (7 - k) = k by omega], rfl, rfl⟩

/-- Settles O34: both draws flip the same pixels, so the second meets each of them as the first left it. -/
theorem secondDrawErasesFirst : Obligations.SecondDrawErasesFirst := by
  intro x y x' y' n s t s' u as as' hn h h' ht hsame hx hy hrows hu
  obtain ⟨t', ht', -, hflip, -, -, -, -, hst⟩ := drwXorsSpriteAndDetectsCollision x y n s as hn h
  cases ht.symm.trans ht'
  obtain ⟨u', hu', -, hflip', hset, hclear, -, -, hsu⟩ := drwXorsSpriteAndDetectsCollision x' y' n s' as' hn h'
  cases hu.symm.trans hu'
  have hlit := State.spriteLit_congr hx hy hrows
  have hmet (p : Pixel) (hp : s.SpriteLit x y as p) : s'.pixel p = !s.pixel p := (hsame p).trans (hflip p hp)
  have hcollides (hc : ∃ p, s.SpriteLit x y as p ∧ s.pixel p = false) : u.reg vf = 1 := by
    obtain ⟨p, hp, hpc⟩ := hc
    exact hset ⟨p, (hlit p).2 hp, by rw [hmet p hp, hpc]; rfl⟩
  refine ⟨fun p => ?_, hcollides, fun hall => ?_, fun ⟨a, ha, hrow⟩ hall => ?_⟩
  · by_cases hp : s.SpriteLit x y as p
    · rw [hflip' p ((hlit p).2 hp), hmet p hp, Bool.not_not]
    · rw [hsu.pixels p fun hp' => hp ((hlit p).1 hp'), hsame p, hst.pixels p hp]
  · refine hclear fun p hp => ?_
    rw [hmet p ((hlit p).1 hp), hall p ((hlit p).1 hp)]
    rfl
  · obtain ⟨p, hp⟩ := State.exists_spriteLit x y ha hrow
    exact hcollides ⟨p, hp, hall p hp⟩

/-- Settles O35: after 00E0 no pixel is set. -/
theorem drawAfterClearNeverCollides : Obligations.DrawAfterClearNeverCollides := by
  intro x y n s t as ht h hn
  obtain ⟨-, t', ht', hblank, -⟩ := clsClearsScreen s
  cases ht.symm.trans ht'
  obtain ⟨u, hu, -, -, -, hclear, -⟩ := drwXorsSpriteAndDetectsCollision x y n t as hn h
  exact ⟨u, hu, hclear fun p _ => hblank p⟩

end Sys2Proof.Machine
end

section
/-! PROOFS. The whole-machine frame (40_step.md R91, 10_state.md R20): what an instruction writes, whether it completes or
raises a fault, and that it always answers a next state (60_exceptions.md R141). -/

namespace Sys2Proof.Machine

/-! ### What `Instr.writes` does not name -/

theorem mayWriteReg_of_writes {s : State} {i : Instr} {k : RegIdx} (h : (Instr.writes s i).regs k) :
    MayWriteReg i k := by
  cases i <;> exact h

theorem not_writes_mem {i : Instr} (h : ∀ x, i ≠ .bcd x ∧ i ≠ .store x) (s : State) (a : Nat) :
    ¬ (Instr.writes s i).mem a := by
  cases i with
  | bcd x => exact absurd rfl (h x).1
  | store x => exact absurd rfl (h x).2
  | _ => exact id

theorem not_writes_stack {i : Instr} (h : ∀ nnn, i ≠ .call nnn) (s : State) (k : Fin 16) :
    ¬ (Instr.writes s i).stack k := by
  cases i with
  | call nnn => exact absurd rfl (h nnn)
  | _ => exact id

theorem not_writes_sp {i : Instr} (hc : ∀ nnn, i ≠ .call nnn) (hr : i ≠ .ret) (s : State) :
    ¬ (Instr.writes s i).sp := by
  cases i with
  | call nnn => exact absurd rfl (hc nnn)
  | ret => exact absurd rfl hr
  | _ => exact id

theorem not_writes_pixels {i : Instr} (hc : i ≠ .cls) (hd : ∀ x y n, i ≠ .drw x y n) (s : State) (p : Pixel) :
    ¬ (Instr.writes s i).pixels p := by
  cases i with
  | cls => exact absurd rfl hc
  | drw x y n => exact absurd rfl (hd x y n)
  | _ => exact id

theorem not_writes_drawFlag {i : Instr} (hc : i ≠ .cls) (hd : ∀ x y n, i ≠ .drw x y n) (s : State) :
    ¬ (Instr.writes s i).drawFlag := by
  cases i with
  | cls => exact absurd rfl hc
  | drw x y n => exact absurd rfl (hd x y n)
  | _ => exact id

theorem not_writes_i {i : Instr} (hl : ∀ nnn, i ≠ .ldI nnn)
    (hx : ∀ x, i ≠ .addI x ∧ i ≠ .ldF x ∧ i ≠ .store x ∧ i ≠ .load x) (s : State) : ¬ (Instr.writes s i).i := by
  cases i with
  | ldI nnn => exact absurd rfl (hl nnn)
  | addI x => have ⟨haddI, _, _, _⟩ := hx x; exact absurd rfl haddI
  | ldF x => have ⟨_, hldF, _, _⟩ := hx x; exact absurd rfl hldF
  | store x => have ⟨_, _, hstore, _⟩ := hx x; exact absurd rfl hstore
  | load x => have ⟨_, _, _, hload⟩ := hx x; exact absurd rfl hload
  | _ => exact id

theorem not_writes_dt {i : Instr} (h : ∀ x, i ≠ .ldDT x) (s : State) : ¬ (Instr.writes s i).dt := by
  cases i with
  | ldDT x => exact absurd rfl (h x)
  | _ => exact id

theorem not_writes_st {i : Instr} (h : ∀ x, i ≠ .ldST x) (s : State) : ¬ (Instr.writes s i).st := by
  cases i with
  | ldST x => exact absurd rfl (h x)
  | _ => exact id

theorem not_writes_rngDraws {i : Instr} (h : ∀ x nn, i ≠ .rnd x nn) (s : State) :
    ¬ (Instr.writes s i).rngDraws := by
  cases i with
  | rnd x nn => exact absurd rfl (h x nn)
  | _ => exact id

/-! ### The statements about every instruction -/

/-- Settles O49: an instruction that completes stays within `Instr.writes`, and one that faults writes only the status. -/
theorem onlyNamedInstructionsWrite : Obligations.OnlyNamedInstructionsWrite := by
  intro i s t h
  obtain ⟨u, hu, hf, -⟩ | ⟨c, -, hc⟩ := exec_spec i s
  · cases hu.symm.trans h
    exact ⟨fun k hk => hf.regs k (mt mayWriteReg_of_writes hk), fun hi a => hf.mem a (not_writes_mem hi s a),
      fun hi k => hf.stack k (not_writes_stack hi s k), fun hc hr => hf.sp (not_writes_sp hc hr s),
      fun hc hd => ⟨fun p => hf.pixels p (not_writes_pixels hc hd s p), hf.drawFlag (not_writes_drawFlag hc hd s)⟩,
      fun hl hx => hf.i (not_writes_i hl hx s), fun hi => hf.dt (not_writes_dt hi s),
      fun hi => hf.st (not_writes_st hi s),
      fun hi => hf.rngDraws (not_writes_rngDraws hi s), hf.keys, hf.soundFlag, hf.events, hf.params⟩
  · cases hc.symm.trans h
    exact ⟨fun k _ => rfl, fun _ a => rfl, fun _ k => rfl, fun _ _ => rfl, fun _ _ => ⟨fun p => rfl, rfl⟩,
      fun _ _ => rfl,
      fun _ => rfl, fun _ => rfl, fun _ => rfl, fun k => rfl, rfl, rfl, rfl⟩

theorem exists_exec_next (i : Instr) (s : State) : ∃ t, exec i s = .next t := by
  obtain ⟨t, h, -⟩ | ⟨c, -, h⟩ := exec_spec i s <;> exact ⟨_, h⟩

/-- Settles O48: a step is inert, a fetch fault, an instruction, or the handling of an unknown opcode. -/
theorem nothingStopsTheMachine : Obligations.NothingStopsTheMachine := by
  refine ⟨exists_exec_next, fun s => ?_⟩
  cases hr : s.runState with
  | unloaded => exact ⟨s, step_of_unloaded hr⟩
  | halted => exact ⟨s, step_of_halted hr⟩
  | running =>
    cases hf : s.fetch with
    | none => exact ⟨_, step_of_fetch_none hr hf⟩
    | some opc =>
      rw [step_of_fetch_some hr hf]
      cases decode opc with
      | ok i =>
        obtain ⟨t, ht⟩ := exists_exec_next i s
        exact ⟨t.completeStep, by rw [State.executeDecoded, ht, finish]⟩
      | error r => exact ⟨_, rfl⟩

end Sys2Proof.Machine
end

section
/-! PROOFS. The step (40_step.md, 60_exceptions.md): the fetch, the instruction at pc, the unknown opcode under each policy,
what a step that halts records and why, and what no step touches. -/

namespace Sys2Proof.Machine

/-! ### The tick, field by field -/

@[simp] theorem State.tick_runState (s : State) : s.tick.runState = s.runState := by rw [State.tick_eq]

@[simp] theorem State.tick_pc (s : State) : s.tick.pc = s.pc := by rw [State.tick_eq]

@[simp] theorem State.tick_params (s : State) : s.tick.params = s.params := by rw [State.tick_eq]

@[simp] theorem State.tick_drawFlag (s : State) : s.tick.drawFlag = s.drawFlag := by rw [State.tick_eq]

@[simp] theorem State.tick_unknownFlag (s : State) : s.tick.unknownFlag = s.unknownFlag := by rw [State.tick_eq]

@[simp] theorem State.tick_key (s : State) (k : Fin 16) : s.tick.key k = s.key k := by rw [State.tick_eq]; rfl

theorem State.tick_soundFlag (s : State) : s.tick.soundFlag = (s.soundFlag || s.st == 1) :=
  have ⟨_, _, hsound, _⟩ := s.tick_spec
  hsound

theorem State.tick_events (s : State) : s.tick.events = s.events ++ if s.st = 1 then [.soundPulse] else [] :=
  have ⟨_, _, _, hevents⟩ := s.tick_spec
  hevents

/-! ### The fetch (R83) -/

/-- Where neither address is refused, the fetch reads the two bytes at pc. -/
theorem State.fetch_eq_some {s : State} (h : s.params.oob = .wrap ∨ s.pc.toNat < 0xFFF) :
    s.fetch = some (wordOfBytes (s.readMem (s.pc.toNat % 4096)) (s.readMem ((s.pc.toNat + 1) % 4096))) := by
  cases hf : s.fetch with
  | none =>
    obtain ⟨hoob, hpc⟩ := State.fetch_none.1 hf
    rcases h with hw | hlt
    · exact nomatch hw.symm.trans hoob
    · omega
  | some opc => rw [State.fetch_some hf]

/-- Settles O42: the fetched word is two bytes, and a refused fetch is a fault raised on the state it found. -/
theorem fetchIsBigEndianOrFaults : Obligations.FetchIsBigEndianOrFaults := by
  refine fun s => ⟨fun h => ⟨_, State.fetch_eq_some h, toNat_wordOfBytes _ _⟩, fun hr hoob hpc => ?_⟩
  have hf : s.fetch = none := State.fetch_none.2 ⟨hoob, by omega⟩
  exact ⟨_, step_of_fetch_none hr hf, s.sameMachine_raiseFault _ _, s.faultRecorded_raiseFault _ _⟩

/-- Two bytes decode to the instruction of the word they make. -/
theorem decode_of_decodeBytes {hi lo : Byte} {i : Instr} {rest : List Byte}
    (h : decodeBytes [hi, lo] = .ok (i, rest)) : decode (wordOfBytes hi lo) = .ok i := by
  rw [decodeBytes] at h
  split at h <;> cases h
  assumption

/-- Settles O43: the step executes what it decoded and completes. -/
theorem stepRunsDecodedInstruction : Obligations.StepRunsDecodedInstruction := by
  intro s u i rest hr hpc hbytes hexec
  have hd := decode_of_decodeBytes hbytes
  have hstep : step s = .next u.completeStep := by
    rw [step_of_fetch_some hr (State.fetch_eq_some hpc), hd, State.executeDecoded, hexec, finish]
  refine ⟨(decode_ok hd).1, fun hu => ?_, fun hu => ?_⟩
  · rw [hstep, State.completeStep_of_running hu]
  · rw [hstep, State.completeStep_of_halted hu]

/-- Settles O44: the two run states other than `Running`. -/
theorem stepIsInertUnlessRunning : Obligations.StepIsInertUnlessRunning := by
  intro s hs
  cases hr : s.runState with
  | unloaded => exact step_of_unloaded hr
  | halted => exact step_of_halted hr
  | running => exact absurd hr hs

/-! ### Unknown opcodes (R145) -/

/-- A report followed by the tick is the record of the spec, wherever pc goes. -/
theorem State.unknownReported_tick {s : State} (hr : s.runState = .running) (opc target : Word) :
    UnknownReported opc s ((s.reportUnknown opc).setPc target).tick := by
  obtain ⟨hdt, hst, hsound, hevents⟩ := ((s.reportUnknown opc).setPc target).tick_spec
  constructor
  case dt => exact hdt
  case st => exact hst
  case soundFlag => exact hsound
  case events => exact hevents
  case runState => exact (State.tick_runState _).trans hr
  all_goals rw [State.tick_eq]; intros; rfl

/-- Settles O45: the step handles the unknown opcode by the policy. -/
theorem unknownOpcodeFollowsPolicy : Obligations.UnknownOpcodeFollowsPolicy := by
  intro s opc r hr hf hd
  obtain ⟨t, ht⟩ := nothingStopsTheMachine.2 s
  obtain ⟨hn, -⟩ | ⟨opc', i, u, hc⟩ | ⟨opc', i, c, hc⟩ | ⟨opc', hu⟩ := step_spec hr ht
  · exact nomatch hn.symm.trans hf
  · cases hc.fetched.symm.trans hf
    exact nomatch hc.decoded.symm.trans hd
  · cases hc.fetched.symm.trans hf
    exact nomatch hc.decoded.symm.trans hd
  · cases hu.fetched.symm.trans hf
    refine ⟨t, ht, fun hp => ?_, fun hp => ?_, fun hp => ?_⟩
    · cases hu.skip hp
      exact ⟨State.unknownReported_tick hr opc (s.pc + 2), State.tick_pc _⟩
    · cases hu.stall hp
      exact ⟨State.unknownReported_tick hr opc s.pc, State.tick_pc _⟩
    · cases hu.halt hp
      exact ⟨s.sameMachine_raiseFault _ _, s.faultRecorded_raiseFault _ _⟩

/-! ### How a step ends (R87, R88) -/

/-- Why a step of a running CORE at `s` halts with the cause `c` (R141). -/
def State.HaltsWith (s : State) (c : FaultCause) : Prop :=
  (s.fetch = none ∧ s.params.oob = .fault ∧ c = .rangeFault) ∨
  (∃ opc i, s.fetch = some opc ∧ decode opc = .ok i ∧ Instr.faultsWith s i c) ∨
  ∃ opc, s.fetch = some opc ∧ decode opc = .error (.unknownOpcode opc) ∧ s.params.unknownOpcode = .halt ∧
    c = .unknownOpcode

/-- A step that halts raised one fault, with the fetched word, on the state it found. -/
theorem step_halts {s t : State} (hr : s.runState = .running) (h : step s = .next t) (ht : t.runState = .halted) :
    ∃ c, s.HaltsWith c ∧ t = s.raiseFault c (s.fetch.getD 0x0000) := by
  have going {u : State} (hu : u.runState = .running) (htu : t = u.tick) : False := by
    rw [htu, State.tick_runState, hu] at ht
    cases ht
  obtain ⟨hn, hoob, htf⟩ | ⟨opc, i, u, hc⟩ | ⟨opc, i, c, hc⟩ | ⟨opc, hu⟩ := step_spec hr h
  · exact ⟨.rangeFault, .inl ⟨hn, hoob, rfl⟩, by rw [hn]; exact htf⟩
  · exact (going (hc.frame.runState.trans hr) hc.ticked).elim
  · exact ⟨c, .inr (.inl ⟨opc, i, hc.fetched, hc.decoded, hc.raises⟩), by rw [hc.fetched]; exact hc.after⟩
  · cases hp : s.params.unknownOpcode with
    | skip => exact (going (u := (s.reportUnknown opc).advance 2) hr (hu.skip hp)).elim
    | stall => exact (going (u := s.reportUnknown opc) hr (hu.stall hp)).elim
    | halt =>
      exact ⟨.unknownOpcode, .inr (.inr ⟨opc, hu.fetched, hu.rejected, hp, rfl⟩), by rw [hu.fetched]; exact hu.halt hp⟩

/-- No step halts for the cause None. -/
theorem State.HaltsWith.ne_noCause {s : State} {c : FaultCause} (h : s.HaltsWith c) : c ≠ .noCause := by
  rintro rfl
  obtain ⟨-, -, ⟨⟩⟩ | ⟨_, _, -, -, hc⟩ | ⟨_, -, -, -, ⟨⟩⟩ := h
  exact hc

/-- Settles O46: the one fault a halting step raised is precise. -/
theorem haltingStepIsPrecise : Obligations.HaltingStepIsPrecise := by
  intro s t hr h ht
  obtain ⟨c, hc, rfl⟩ := step_halts hr h ht
  exact ⟨s.sameMachine_raiseFault _ _, hc.ne_noCause, s.faultRecorded_raiseFault _ _⟩

/-- Settles O47: the condition of each cause, read off the three ways a step can halt. -/
theorem eachCauseHasItsCondition : Obligations.EachCauseHasItsCondition := by
  intro s t hr h ht
  obtain ⟨c, hc, rfl⟩ := step_halts hr h ht
  simp only [State.raiseFault_faultCause]
  obtain ⟨hn, hoob, rfl⟩ | ⟨opc, i, hf, hd, hi⟩ | ⟨opc, hf, hd, hp, rfl⟩ := hc
  · obtain ⟨-, hpc⟩ := State.fetch_none.1 hn
    exact ⟨nofun, nofun, nofun, fun _ => ⟨hoob, .inl ⟨hn, by omega⟩⟩⟩
  · cases c with
    | noCause | unknownOpcode => exact hi.elim
    | stackOverflow =>
      obtain ⟨hsp, nnn, rfl⟩ := hi
      exact ⟨nofun, fun _ => ⟨Fin.ext hsp, opc, nnn, hf, hd⟩, nofun, nofun⟩
    | stackUnderflow =>
      obtain ⟨hsp, rfl⟩ := hi
      exact ⟨nofun, nofun, fun _ => ⟨Fin.ext hsp, opc, hf, hd⟩, nofun⟩
    | rangeFault =>
      obtain ⟨hoob, hout⟩ := hi
      exact ⟨nofun, nofun, nofun, fun _ => ⟨hoob, .inr ⟨opc, i, hf, hd, hout⟩⟩⟩
  · exact ⟨fun _ => ⟨hp, opc, hf, hd⟩, nofun, nofun, nofun⟩

/-! ### What no step touches (R91) -/

/-- `t` differs from `s` in nothing that belongs to the host: keys and parameters as they were, no flag cleared, no event
taken back. -/
structure LeavesHost (s t : State) : Prop where
  keys : ∀ k, t.key k = s.key k
  params : t.params = s.params
  drawFlag : s.drawFlag = true → t.drawFlag = true
  soundFlag : s.soundFlag = true → t.soundFlag = true
  unknownFlag : s.unknownFlag = true → t.unknownFlag = true
  events : s.events <+: t.events

theorem LeavesHost.refl (s : State) : LeavesHost s s := ⟨fun _ => rfl, rfl, id, id, id, List.prefix_rfl⟩

theorem LeavesHost.trans {s t u : State} (h : LeavesHost s t) (h' : LeavesHost t u) : LeavesHost s u where
  keys k := (h'.keys k).trans (h.keys k)
  params := h'.params.trans h.params
  drawFlag := h'.drawFlag ∘ h.drawFlag
  soundFlag := h'.soundFlag ∘ h.soundFlag
  unknownFlag := h'.unknownFlag ∘ h.unknownFlag
  events := h.events.trans h'.events

theorem State.leavesHost_tick (s : State) : LeavesHost s s.tick where
  keys := s.tick_key
  params := s.tick_params
  drawFlag := s.tick_drawFlag.trans
  soundFlag h := by rw [State.tick_soundFlag, h, Bool.true_or]
  unknownFlag := s.tick_unknownFlag.trans
  events := by rw [State.tick_events]; exact List.prefix_append _ _

theorem State.leavesHost_raiseFault (s : State) (c : FaultCause) (opc : Word) : LeavesHost s (s.raiseFault c opc) :=
  ⟨fun _ => rfl, rfl, id, id, id, List.prefix_rfl⟩

theorem State.leavesHost_reportUnknown (s : State) (opc : Word) : LeavesHost s (s.reportUnknown opc) :=
  ⟨fun _ => rfl, rfl, id, id, fun _ => rfl, List.prefix_append _ _⟩

theorem StepCompleted.leavesHost {s t u : State} {opc : Word} {i : Instr} (h : StepCompleted s t u opc i) :
    LeavesHost s u where
  keys := h.frame.keys
  params := h.frame.params
  drawFlag := h.drawFlag
  soundFlag := h.frame.soundFlag.trans
  unknownFlag := h.frame.unknownFlag.trans
  events := by rw [h.frame.events]

/-- A step of a running CORE leaves what is the host's, and leaves the CORE running or halted. -/
theorem step_leavesHost {s t : State} (hr : s.runState = .running) (h : step s = .next t) :
    LeavesHost s t ∧ (t.runState = .running ∨ t.runState = .halted) := by
  obtain ⟨-, -, rfl⟩ | ⟨opc, i, u, hc⟩ | ⟨opc, i, c, hc⟩ | ⟨opc, hu⟩ := step_spec hr h
  · exact ⟨s.leavesHost_raiseFault _ _, .inr rfl⟩
  · cases hc.ticked
    exact ⟨hc.leavesHost.trans u.leavesHost_tick, .inl ((State.tick_runState u).trans (hc.frame.runState.trans hr))⟩
  · cases hc.after
    exact ⟨s.leavesHost_raiseFault _ _, .inr rfl⟩
  · have hrep := s.leavesHost_reportUnknown opc
    cases hp : s.params.unknownOpcode with
    | skip =>
      cases hu.skip hp
      have hadv : LeavesHost s ((s.reportUnknown opc).advance 2) :=
        ⟨hrep.keys, hrep.params, hrep.drawFlag, hrep.soundFlag, hrep.unknownFlag, hrep.events⟩
      exact ⟨hadv.trans (State.leavesHost_tick _), .inl ((State.tick_runState _).trans hr)⟩
    | stall =>
      cases hu.stall hp
      exact ⟨hrep.trans (State.leavesHost_tick _), .inl ((State.tick_runState _).trans hr)⟩
    | halt =>
      cases hu.halt hp
      exact ⟨s.leavesHost_raiseFault _ _, .inr rfl⟩

/-- Settles O50: an inert step changes nothing, and every other leaves what is the host's. -/
theorem stepLeavesHostsStateAlone : Obligations.StepLeavesHostsStateAlone := by
  intro s t h
  by_cases hr : s.runState = .running
  · obtain ⟨⟨hkeys, hparams, hdraw, hsound, hunknown, hevents⟩, hend⟩ := step_leavesHost hr h
    exact ⟨hkeys, hparams, hdraw, hsound, hunknown, hevents, fun hn => absurd hr hn, fun _ => hend⟩
  · cases (stepIsInertUnlessRunning s hr).symm.trans h
    exact ⟨fun _ => rfl, rfl, id, id, id, List.prefix_rfl, fun _ => rfl, fun hr' => absurd hr' hr⟩

end Sys2Proof.Machine
end

section
/-! PROOFS. Keys and timers over steps (45_timers_keys.md): the key skips (R137 to R139), the one tick of every completed
step (R87, R132, R133), and the count of the timers over many (R140). -/

namespace Sys2Proof.Machine

/-! ### Key skips -/

/-- A key index that is not refused is the low nibble. -/
theorem State.keyIdx_eq_some {s : State} {v : Byte} {k : Fin 16} (h : s.params.oob = .wrap ∨ v.toNat ≤ 0x0F)
    (hk : k.val = v.toNat % 16) : s.keyIdx v = some k := by
  cases hj : s.keyIdx v with
  | none =>
    obtain ⟨hoob, hv⟩ := State.keyIdx_none.1 hj
    rcases h with hw | hle
    · exact nomatch hw.symm.trans hoob
    · omega
  | some j => exact congrArg some (Fin.ext ((State.keyIdx_some hj).trans hk.symm))

/-- Settles O39: each skip is `State.skipIf` of the latch, which writes nothing but pc. -/
theorem keySkipsReadLatch : Obligations.KeySkipsReadLatch := by
  intro x k s h hk
  have hidx := State.keyIdx_eq_some h hk
  refine ⟨⟨_, execSkp_of_some hidx, s.skipIf_pc _, s.frame_skipIf _⟩, ⟨_, execSknp_of_some hidx, ?_, s.frame_skipIf _⟩⟩
  rw [State.skipIf_pc]
  simp only [Bool.not_eq_true']

/-! ### One completed step -/

/-- A step that ends running completed an instruction, or reported an unknown opcode. -/
theorem step_goesOn {s t : State} (hr : s.runState = .running) (h : step s = .next t) (ht : t.runState = .running) :
    (∃ opc i u, StepCompleted s t u opc i) ∨ ∃ opc, StepUnknown s t opc ∧ UnknownReported opc s t := by
  obtain ⟨-, -, rfl⟩ | hc | ⟨opc, i, c, hc⟩ | ⟨opc, hu⟩ := step_spec hr h
  · cases ht
  · exact .inl hc
  · cases hc.after
    cases ht
  · refine .inr ⟨opc, hu, ?_⟩
    cases hp : s.params.unknownOpcode with
    | skip => exact hu.skip hp ▸ State.unknownReported_tick hr opc (s.pc + 2)
    | stall => exact hu.stall hp ▸ State.unknownReported_tick hr opc s.pc
    | halt =>
      cases hu.halt hp
      cases ht

/-- The pulses among the events after one that may pulse. -/
theorem count_soundPulse_append (es : List Event) (p : Prop) [Decidable p] :
    (es ++ if p then [Event.soundPulse] else []).count .soundPulse = es.count .soundPulse + if p then 1 else 0 := by
  split <;> simp

/-- Settles O40: a completed instruction is ticked at the state it left, an unknown opcode at the state it found. -/
theorem everyCompletedStepTicksOnce : Obligations.EveryCompletedStepTicksOnce := by
  intro s t opc hr hf h ht
  obtain ⟨opc', i, u, hc⟩ | ⟨opc', hu, hrep⟩ := step_goesOn hr h ht
  · cases hc.fetched.symm.trans hf
    cases hc.ticked
    have hd := hc.decoded
    obtain ⟨hdt, hst, hsound, hevents⟩ := u.tick_spec
    obtain ⟨-, -, -, -, -, -, hsdt, hsst, -, -, hssound, hsevents, -⟩ := onlyNamedInstructionsWrite i s u hc.executed
    refine ⟨fun j hj => ?_, fun hno => ?_, fun hno => ?_⟩
    · cases hd.symm.trans hj
      exact ⟨u, hc.executed, hdt, hst, hsound, hevents⟩
    · rw [hdt, hsdt fun x hx => hno x (hx ▸ hd)]
    · rw [hsst fun x hx => hno x (hx ▸ hd)] at hst hsound hevents
      rw [hssound] at hsound
      rw [hsevents] at hevents
      exact ⟨hst, hsound, by rw [hevents, count_soundPulse_append], fun _ _ => hevents⟩
  · cases hu.fetched.symm.trans hf
    have hno (j : Instr) (hj : decode opc = .ok j) : False := nomatch hu.rejected.symm.trans hj
    refine ⟨fun j hj => (hno j hj).elim, fun _ => hrep.dt,
      fun _ => ⟨hrep.st, hrep.soundFlag, ?_, fun j hj => (hno j hj).elim⟩⟩
    rw [hrep.events, count_soundPulse_append, List.count_append]
    simp

/-! ### Many completed steps -/

/-- A number that goes down by one each time has gone down by n after n times, clamped at 0. -/
theorem countdown {f : Nat → Nat} {n : Nat} (h : ∀ k < n, f (k + 1) = f k - 1) : f n = f 0 - n := by
  induction n with
  | zero => rfl
  | succ n ih =>
    rw [h n (Nat.lt_succ_self n), ih fun k hk => h k (Nat.lt_succ_of_lt hk)]
    omega

/-- What is counted each time such a number is 1 is counted once, if the number passed from 1 to 0. -/
theorem countdown_count {f g : Nat → Nat} {n : Nat} (hf : ∀ k < n, f (k + 1) = f k - 1)
    (hg : ∀ k < n, g (k + 1) = g k + if f k = 1 then 1 else 0) :
    g n = g 0 + if 0 < f 0 ∧ f 0 ≤ n then 1 else 0 := by
  induction n with
  | zero => rw [if_neg (by omega)]; rfl
  | succ n ih =>
    have hf' : ∀ k < n, f (k + 1) = f k - 1 := fun k hk => hf k (Nat.lt_succ_of_lt hk)
    rw [hg n (Nat.lt_succ_self n), ih hf' fun k hk => hg k (Nat.lt_succ_of_lt hk), countdown hf']
    split_ifs <;> omega

/-- A step that ends running fetched a word. -/
theorem exists_fetch_of_goesOn {s t : State} (hr : s.runState = .running) (h : step s = .next t)
    (ht : t.runState = .running) : ∃ opc, s.fetch = some opc := by
  obtain ⟨opc, i, u, hc⟩ | ⟨opc, hu, -⟩ := step_goesOn hr h ht
  · exact ⟨opc, hc.fetched⟩
  · exact ⟨opc, hu.fetched⟩

/-- A completed step that does not run Fx15 takes DT down by one. -/
theorem toNat_dt_of_goesOn {s t : State} (hr : s.runState = .running) (h : step s = .next t)
    (ht : t.runState = .running) (hno : ∀ opc x, s.fetch = some opc → decode opc ≠ .ok (.ldDT x)) :
    t.dt.toNat = s.dt.toNat - 1 := by
  obtain ⟨opc, hf⟩ := exists_fetch_of_goesOn hr h ht
  obtain ⟨-, hdt, -⟩ := everyCompletedStepTicksOnce s t opc hr hf h ht
  exact hdt fun x => hno opc x hf

/-- A completed step that does not run Fx18 takes ST down by one, and pulses where it was 1. -/
theorem toNat_st_of_goesOn {s t : State} (hr : s.runState = .running) (h : step s = .next t)
    (ht : t.runState = .running) (hno : ∀ opc x, s.fetch = some opc → decode opc ≠ .ok (.ldST x)) :
    t.st.toNat = s.st.toNat - 1 ∧
    t.events.count .soundPulse = s.events.count .soundPulse + if s.st.toNat = 1 then 1 else 0 := by
  obtain ⟨opc, hf⟩ := exists_fetch_of_goesOn hr h ht
  obtain ⟨-, -, hst⟩ := everyCompletedStepTicksOnce s t opc hr hf h ht
  obtain ⟨hst, -, hcount, -⟩ := hst fun x => hno opc x hf
  have hone : s.st = 1 ↔ s.st.toNat = 1 := BitVec.toNat_inj.symm
  exact ⟨hst, hcount.trans (congrArg _ (if_congr hone rfl rfl))⟩

/-- Settles O41: each step is one tick of `everyCompletedStepTicksOnce`, and the timers are counted down by it. -/
theorem timersCountDownOverSteps : Obligations.TimersCountDownOverSteps := by
  intro run n hrun
  refine ⟨fun hno => countdown (f := fun k => (run k).dt.toNat) fun k hk => ?_, fun hno => ?_⟩
  · obtain ⟨hr, h, ht⟩ := hrun k hk
    exact toNat_dt_of_goesOn hr h ht fun opc x => hno k opc x hk
  · have hst (k : Nat) (hk : k < n) :=
      have ⟨hr, h, ht⟩ := hrun k hk
      toNat_st_of_goesOn hr h ht fun opc x => hno k opc x hk
    exact ⟨countdown (f := fun k => (run k).st.toNat) fun k hk => (hst k hk).1,
      countdown_count (f := fun k => (run k).st.toNat) (g := fun k => (run k).events.count .soundPulse)
        (fun k hk => (hst k hk).1) fun k hk => (hst k hk).2⟩

end Sys2Proof.Machine
end

section
/-! PROOFS. The invariant (10_state.md section 6): it holds after a reset, every step keeps it, and so does every host
transaction on a loaded CORE. -/

namespace Sys2Proof.Machine

/-! ### What the invariant looks at -/

/-- The invariant does not look at registers, timers, the screen, the host's two flags, the keys or the events. -/
theorem State.Inv.of_unobserved {s : State} (h : s.Inv) (dt st : Byte) (drawFlag soundFlag : Bool)
    (keys : Vector Bool 16) (events : List Event) :
    { s with dt, st, drawFlag, soundFlag, keys, events : State }.Inv := by
  obtain ⟨hmem, ⟨⟩⟩ := h
  exact ⟨hmem, by constructor <;> assumption⟩

/-- The tick keeps the invariant. -/
theorem State.Inv.tick {s : State} (h : s.Inv) : s.tick.Inv := by
  rw [State.tick_eq]
  exact h.of_unobserved ..

/-- The unknown flag is consistent where it is clear. -/
theorem State.Inv.clearUnknownFlag {s : State} (h : s.Inv) : { s with unknownFlag := false : State }.Inv := by
  obtain ⟨hmem, ⟨⟩⟩ := h
  refine ⟨hmem, ?_⟩
  constructor
  case flagAfterReport => exact nofun
  all_goals assumption

/-! ### A running CORE that goes on -/

/-- A running CORE's status stays consistent under anything that writes no status register. -/
theorem Frame.statusConsistent {w : Writes} {s t : State} (hf : Frame w s t) (hr : s.runState = .running)
    (hs : s.StatusConsistent) : t.StatusConsistent := by
  have hrt : t.runState = .running := hf.runState.trans hr
  have hcause := hs.runningNotFatal hr
  rw [← hf.faultCause] at hcause
  constructor
  case haltedHasCause | haltedAtFault | unknownHalted => simp [hrt]
  case overflowFull | underflowEmpty | rangeUnderFault => rcases hcause with h | h <;> simp [h]
  case runningNotFatal => exact fun _ => hcause
  case unknownRunning => rw [hf.faultCause, hf.params]; exact fun _ => hs.unknownRunning hr
  case flagAfterReport => rw [hf.unknownFlag, hf.faultCause, hf.params]; exact hs.flagAfterReport
  case nothingRecorded => rw [hf.faultCause, hf.faultOpcode, hf.faultPc]; exact hs.nothingRecorded

/-- Reporting an unknown opcode keeps the invariant of a running CORE whose policy is to go on. -/
theorem State.Inv.reportUnknown {s : State} (h : s.Inv) (hr : s.runState = .running)
    (hp : s.params.unknownOpcode ≠ .halt) (opc : Word) : (s.reportUnknown opc).Inv := by
  refine ⟨h.memory, ?_⟩
  constructor <;> simp [hr, hp]

/-! ### A CORE that halts -/

/-- The condition each cause of a halt names (R141). -/
def State.FaultCondition (s : State) : FaultCause → Prop
  | .noCause => False
  | .unknownOpcode => s.params.unknownOpcode = .halt
  | .stackOverflow => s.sp = 16
  | .stackUnderflow => s.sp = 0
  | .rangeFault => s.params.oob = .fault

theorem faultCondition_of_faultsWith {s : State} {i : Instr} {c : FaultCause} (h : Instr.faultsWith s i c) :
    s.FaultCondition c := by
  cases c with
  | noCause | unknownOpcode => exact h.elim
  | stackOverflow | stackUnderflow => exact Fin.ext h.1
  | rangeFault => exact h.1

/-- A fault raised under its condition keeps the invariant. -/
theorem State.Inv.raiseFault {s : State} (h : s.Inv) {c : FaultCause} (hc : s.FaultCondition c) (opc : Word) :
    (s.raiseFault c opc).Inv := by
  refine ⟨h.memory, ?_⟩
  have hflag : s.unknownFlag = true → s.params.unknownOpcode ≠ .halt := fun hf => (h.status.flagAfterReport hf).2
  cases c with
  | noCause => exact hc.elim
  | unknownOpcode | stackOverflow | stackUnderflow | rangeFault =>
    simp only [State.FaultCondition] at hc
    constructor
    case flagAfterReport => exact fun hf => ⟨nofun, hflag hf⟩
    all_goals simp [hc]

/-! ### The step -/

/-- Settles O57: each thing a step can do keeps the invariant. -/
theorem stepKeepsInvariant : Obligations.StepKeepsInvariant := by
  intro s t hs hstep
  cases hr : s.runState with
  | halted => cases (step_of_halted hr).symm.trans hstep; exact hs
  | unloaded => cases (step_of_unloaded hr).symm.trans hstep; exact hs
  | running =>
    obtain ⟨-, hoob, rfl⟩ | ⟨opc, i, u, hc⟩ | ⟨opc, i, c, hf⟩ | ⟨opc, hu⟩ := step_spec hr hstep
    · exact hs.raiseFault (c := .rangeFault) hoob _
    · have hu : u.Inv := ⟨hc.memory hs.memory, hc.frame.statusConsistent hr hs.status⟩
      exact hc.ticked ▸ hu.tick
    · exact hf.after ▸ hs.raiseFault (faultCondition_of_faultsWith hf.raises) opc
    · cases hp : s.params.unknownOpcode with
      | skip =>
        have hrep := hs.reportUnknown hr (by simp [hp]) opc
        have hadv : ((s.reportUnknown opc).advance 2).Inv :=
          ⟨hrep.memory, (State.frame_setPc _ _).statusConsistent hr hrep.status⟩
        exact hu.skip hp ▸ hadv.tick
      | stall => exact hu.stall hp ▸ (hs.reportUnknown hr (by simp [hp]) opc).tick
      | halt => exact hu.halt hp ▸ hs.raiseFault (c := .unknownOpcode) hp opc

/-! ### Reset and load -/

/-- Every reset meets the invariant: nothing is listed in memory and nothing is recorded. -/
theorem State.inv_resetKeeping (s : State) : s.resetKeeping.Inv := by
  refine ⟨rfl, ?_⟩
  constructor <;> simp [State.resetKeeping, State.initial]

/-- Copying an image that fits keeps the invariant. -/
theorem State.Inv.copyImage {s : State} (h : s.Inv) (a : Nat) (bs : List Byte) (hfit : a + bs.length ≤ 4096) :
    (s.copyImage a bs).Inv := by
  have hmem := State.memCanonical_copyImage h.memory a bs hfit
  obtain ⟨-, ⟨⟩⟩ := h
  rw [State.copyImage_eq] at hmem ⊢
  exact ⟨hmem, by constructor <;> assumption⟩

/-- A load of an image that is too long only unloads the CORE (R161). -/
theorem transact_load_too_long (s : State) (image : List Byte) (h : 3584 < image.length) :
    transact (.load image) s = .next ({ s with runState := .unloaded }, .loadError loadErrorCode) := by
  have h' : image.length > maxImage := h
  simp [transact, State.loadPort, State.load, h']

/-- Settles O56: the reset state is a reset, of itself. -/
theorem resetMeetsInvariant : Obligations.ResetMeetsInvariant := State.inv_resetKeeping State.reset

/-! ### The host's transactions -/

/-- The step as a transaction is the step. -/
theorem step_of_transact {s t : State} {a : Answer} (h : transact .step s = .next (t, a)) : step s = .next t := by
  simp only [transact, State.stepPort] at h
  split at h <;> cases h
  assumption

/-- A port that reads changes nothing. -/
theorem State.eq_of_readPort {s t : State} {b : Bool} {a : Answer} (h : s.readPort b = .next (t, a)) : t = s := by
  unfold State.readPort at h
  split at h <;> cases h <;> rfl

theorem State.eq_of_readPixelPort {s t : State} {px py : Nat} {a : Answer}
    (h : s.readPixelPort px py = .next (t, a)) : t = s := by
  unfold State.readPixelPort at h
  split at h
  · exact State.eq_of_readPort h
  · cases h

/-- Settles O59: a load resets or unloads, a step keeps the invariant, and every other transaction leaves the run state and
writes nothing the invariant looks at but the unknown flag, which it clears. -/
theorem transactionsKeepInvariant : Obligations.TransactionsKeepInvariant := by
  intro op a s t hs h
  cases op with
  | load image =>
    rcases Nat.lt_or_ge 3584 image.length with hlen | hlen
    · cases (transact_load_too_long s image hlen).symm.trans h
      exact .inl rfl
    · cases (transact_load_ok s image hlen).symm.trans h
      exact .inr (s.inv_resetKeeping.copyImage 0x200 image (by omega))
  | step =>
    have hstep := step_of_transact h
    rcases hs with hr | hs
    · cases (step_of_unloaded hr).symm.trans hstep
      exact .inl hr
    · exact .inr (stepKeepsInvariant s t hs hstep)
  | setKey k pressed =>
    cases h
    exact hs.imp id fun hs => hs.of_unobserved s.dt s.st s.drawFlag s.soundFlag (s.keys.set k.val pressed) s.events
  | clearDrawFlag =>
    cases h
    exact hs.imp id fun hs => hs.of_unobserved s.dt s.st false s.soundFlag s.keys s.events
  | clearSoundFlag =>
    cases h
    exact hs.imp id fun hs => hs.of_unobserved s.dt s.st s.drawFlag false s.keys s.events
  | clearUnknownFlag =>
    cases h
    exact hs.imp id State.Inv.clearUnknownFlag
  | readPixel px py => exact State.eq_of_readPixelPort h ▸ hs
  | readDrawFlag | readSoundFlag => exact State.eq_of_readPort h ▸ hs
  | readStatus => cases h; exact hs

/-- Settles O58: by induction on how the state was brought about. -/
theorem loadedCoreMeetsInvariant : Obligations.LoadedCoreMeetsInvariant := by
  intro s hs hloaded
  suffices H : s.runState = .unloaded ∨ s.Inv from H.resolve_left hloaded
  clear hloaded
  induction hs with
  | powerOn s h => exact .inl h
  | transaction s t op a _ h ih => exact transactionsKeepInvariant op a s t ih h

end Sys2Proof.Machine
end

section
/-! PROOFS. The reset, the load and the host's ports (10_state.md R38 to R44, 70_reset_and_hazards.md R159, R161). -/

namespace Sys2Proof.Machine

/-! ### The reset (R38) -/

theorem State.reg_initial (p : Params) (k : RegIdx) : (State.initial p).reg k = 0 := by
  simp [State.initial, State.reg]

theorem State.stackAt_initial (p : Params) (k : Fin 16) : (State.initial p).stackAt k = 0 := by
  simp [State.initial, State.stackAt]

theorem State.pixel_initial (p : Params) (q : Pixel) : (State.initial p).pixel q = false := Framebuffer.get_clear q

theorem State.key_initial (p : Params) (k : Fin 16) : (State.initial p).key k = false := by
  simp [State.initial, State.key]

/-- Settles O51: the reset lists nothing in memory, so it reads as the font and zeros, and every other element is written
out in R38's table. -/
theorem resetState : Obligations.ResetState :=
  ⟨fun a => ⟨fun h => (State.readMem_of_nil rfl a).trans (Memory.unlisted_of_lt _ h),
      fun h => (State.readMem_of_nil rfl a).trans (Memory.unlisted_of_le _ h)⟩,
    rfl, State.reg_initial _, rfl, rfl, State.stackAt_initial _, rfl, rfl, State.pixel_initial _, rfl, rfl,
    State.key_initial _, rfl, rfl, rfl, rfl, rfl⟩

/-! ### Load (R40, R159, R161) -/

/-- Settles O53: the copy writes memory alone after the reset, and a load that fails leaves the CORE unloaded. -/
theorem loadResetsOrAnswersError : Obligations.LoadResetsOrAnswersError := by
  refine fun s image => ⟨fun hlen => ⟨_, transact_load_ok s image hlen, ?_⟩,
    fun hlen => ⟨_, transact_load_too_long s image hlen, rfl, step_of_unloaded rfl⟩⟩
  rw [State.copyImage_eq]
  exact ⟨rfl, rfl, State.reg_initial s.params, rfl, rfl, State.stackAt_initial s.params, rfl, rfl,
    State.pixel_initial s.params, rfl, rfl, State.key_initial s.params, rfl, rfl, rfl, rfl, rfl⟩

/-! ### The ports (R42 to R44) -/

/-- The latch written holds what was written, and the others what they held. -/
theorem State.key_setKey (s : State) (k j : Fin 16) (b : Bool) :
    (s.setKey k b).key j = if j = k then b else s.key j := by
  simp only [State.key, State.setKey, Vector.getElem_set, Fin.ext_iff, eq_comm]

/-- Settles O54: SetKey is one write of the latches, and no step is one. -/
theorem setKeyWritesOneLatch : Obligations.SetKeyWritesOneLatch := by
  refine ⟨fun k b s => ⟨s.setKey k b, rfl, ?_, fun j hj => ?_, rfl⟩, fun s t h => ?_⟩
  · rw [State.key_setKey, if_pos rfl]
  · rw [State.key_setKey, if_neg hj]
  · obtain ⟨hkeys, -⟩ := stepLeavesHostsStateAlone s t h
    exact hkeys

theorem State.readPort_of_loaded {s : State} (h : s.runState ≠ .unloaded) (b : Bool) :
    s.readPort b = .next (s, .bit b) := by
  unfold State.readPort
  split
  · contradiction
  · rfl
  · rfl

theorem State.readPort_of_unloaded {s : State} (h : s.runState = .unloaded) (b : Bool) :
    s.readPort b = .refused .unloadedRead := by
  rw [State.readPort, h]

/-- A coordinate inside the grid is read through the port. -/
theorem transact_readPixel (s : State) (p : Pixel) :
    transact (.readPixel p.1.val p.2.val) s = s.readPort (s.pixel p) :=
  dif_pos ⟨p.1.isLt, p.2.isLt⟩

/-- A coordinate outside the grid does not exist on the port. -/
theorem transact_readPixel_outside (s : State) {px py : Nat} (h : 64 ≤ px ∨ 32 ≤ py) :
    transact (.readPixel px py) s = .refused .pixelOutsidePort :=
  dif_neg (by omega)

theorem State.readStatusPort_of_loaded {s : State} (h : s.runState ≠ .unloaded) :
    s.readStatusPort = .status s.runState (some s.status) := by
  unfold State.readStatusPort
  cases hr : s.runState with
  | unloaded => exact absurd hr h
  | running => rfl
  | halted => rfl

/-- Settles O55: each port by its own law, the clears by their definition. -/
theorem portsReadAndClear : Obligations.PortsReadAndClear := by
  refine fun s => ⟨fun h => ⟨fun p => ?_, State.readPort_of_loaded h _, State.readPort_of_loaded h _, ?_⟩,
    fun px py h => transact_readPixel_outside s h, fun h p => ?_, rfl, rfl, rfl⟩
  · rw [transact_readPixel, State.readPort_of_loaded h]
  · rw [transact, State.readStatusPort_of_loaded h]
    rfl
  · rw [transact_readPixel, State.readPort_of_unloaded h]

end Sys2Proof.Machine
end
